-- ==== Sys2Proof/Word.lean ====
section
/-! DEFINITION. The bit-vector types of the LIS3DSH register unpacker (spec/00_scope.md R4, R5). -/

namespace Sys2Proof

/-- One bus datum, one register offset, one immediate operand: `u8` (R4 `BYTEW`, `REGW`). -/
abbrev Byte := BitVec 8

/-- The 16-bit pattern of a raw axis sample; `BitVec.toInt` is its two's-complement value
`sint_16` (R4 `SAMPW`, R5, R53). -/
abbrev Sample16 := BitVec 16

/-- A command word `CMD` (R4 `CMDW`, R47). -/
abbrev CommandWord := BitVec 24

/-- A binary64 pattern: the format `FMT` of scale modifiers and acceleration components
(R4 `FMT`, R56, decision D8). -/
abbrev Fmt := BitVec 64

/-- A response word `RSP` (R51). -/
abbrev ResponseWord := BitVec 196

end Sys2Proof
end

