-- ==== Sys2Proof/Machine/Types.lean ====
section
/-! DEFINITION. The types the rules use (spec/00_scope.md R7; spec/10_state.md R10 to R14;
spec/20_memory.md R25; spec/30_encoding.md R46, R50). -/

namespace Sys2Proof.Machine

/-- `DeviceAddress`: an opaque token (R10, D6). The block stores it and passes it on and computes
nothing from it (R49). The spec leaves the type OPEN; `token` only tells addresses apart
(assumption 1). -/
structure DeviceAddress where
  token : Nat
  deriving DecidableEq, Repr

/-- `TErr`: the opaque token a failed bus transaction carries (R4, R96, D11; assumption 2). -/
structure TErr where
  token : Nat
  deriving DecidableEq, Repr

/-- `Units` (R7). -/
inductive AccelUnits where
  /-- g-units -/
  | g
  /-- metres per second squared -/
  | ms2
  deriving DecidableEq, Repr

/-- `RangeSetting` (R7). -/
inductive RangeSetting where
  | r2g
  | r4g
  | r6g
  | r8g
  | r16g
  | unknown
  deriving DecidableEq, Repr

/-- `Payload` (R7, R50). A sample is held as its 16-bit pattern (R53). -/
inductive Payload where
  | unit
  | sample (s : Sample16)
  | raw (b : Byte)
  | decoded (r : RangeSetting)
  | modifier (m : Fmt)
  | accel (x y z : Fmt)
  deriving DecidableEq, Repr

/-- `Response` (R7, R50): on `err` there is no payload at all (R98). -/
inductive Response where
  | ok (p : Payload)
  | err (e : TErr)
  deriving DecidableEq, Repr

/-- `Phase`: the position of the sequencer (R13). -/
inductive Phase where
  /-- no command in progress -/
  | idle
  /-- INIT: the configuration write -/
  | i0
  /-- RDAXIS: low read -/
  | a0
  /-- RDAXIS: high read -/
  | a1
  /-- RDRANGE: the range read -/
  | g0
  /-- RDACCEL: X low -/
  | c0
  /-- RDACCEL: X high -/
  | c1
  /-- RDACCEL: Y low -/
  | c2
  /-- RDACCEL: Y high -/
  | c3
  /-- RDACCEL: Z low -/
  | c4
  /-- RDACCEL: Z high -/
  | c5
  /-- RDACCEL: range byte -/
  | c6
  deriving DecidableEq, Repr

/-- The command in progress as the block latches it (R14): its opcode is the constructor, its
modifier the `raw` and `units` flags, its operand `a` the `base`; the value of `cmd_daddr` is
latched with INIT (R81). The pure commands are never in progress (R13). -/
inductive Command where
  | init (aIn : DeviceAddress)
  | rdaxis (base : Byte)
  | rdrange (raw : Bool)
  | rdaccel (units : AccelUnits)
  deriving DecidableEq, Repr

/-- What the transport answers to a read that completes or fails (R25). -/
inductive ReadReply where
  | byte (v : Byte)
  | fail (e : TErr)
  deriving DecidableEq, Repr

/-- What the transport answers to a write that completes or fails (R25). -/
inductive WriteReply where
  | ack
  | fail (e : TErr)
  deriving DecidableEq, Repr

/-- One transaction on the bus-master port together with its reply (R25, R46): an entry of the bus
trace (R97 last sentence, R126). -/
inductive Transaction where
  | read (address : DeviceAddress) (register : Byte) (reply : ReadReply)
  | write (address : DeviceAddress) (register value : Byte) (reply : WriteReply)
  deriving DecidableEq, Repr

/-- A transaction put on the bus-master port and not yet answered (R81, column "issue"). -/
inductive Request where
  | read (address : DeviceAddress) (register : Byte)
  | write (address : DeviceAddress) (register value : Byte)
  deriving DecidableEq, Repr

/-- What the host offers on the command port: a word and, beside it, a value on `cmd_daddr`
(R46, R49). -/
structure Offer where
  word : CommandWord
  daddr : DeviceAddress
  deriving DecidableEq, Repr

/-- The agents that can act (R8). The fourth, other users of the same bus, does not exist: the block
owns its transport (R8, R35, D16). -/
inductive Agent where
  /-- the caller of the operation in progress -/
  | host
  /-- the sequencer of the block -/
  | sequencer
  /-- the bus transport with the device behind it -/
  | bus
  deriving DecidableEq, Repr, Inhabited

/-- What the host can do in one step (R8, R119). -/
inductive HostMove where
  /-- nothing -/
  | wait
  /-- offer a command, if none of its own still stands at the port -/
  | offer (o : Offer)
  /-- take the oldest response it has not taken -/
  | take
  /-- assert `rst` -/
  | assertRst
  deriving DecidableEq, Repr, Inhabited

end Sys2Proof.Machine
end

