-- ==== Sys2Proof/Config.lean ====
section
/-! DEFINITION. The constants the source fixes bit-exactly (spec/00_scope.md R4;
spec/20_memory.md R27; spec/30_encoding.md R57), the parameters of a run (R8) and the free values of the
model. -/

namespace Sys2Proof.Config

/-- `REG_CTRL4`: the data-rate configuration register, written once by `INIT` (R27). -/
def regCtrl4 : Byte := 0x20

/-- `REG_CTRL5`: the range configuration register, read only (R27). -/
def regCtrl5 : Byte := 0x24

/-- `REG_XOUT0`: X sample, low byte (R27). -/
def regXout0 : Byte := 0x28

/-- `REG_XOUT0 + 1`: X sample, high byte (R27, R29). -/
def regXout1 : Byte := 0x29

/-- `REG_YOUT0`: Y sample, low byte (R27). -/
def regYout0 : Byte := 0x2A

/-- `REG_YOUT0 + 1`: Y sample, high byte (R27, R29). -/
def regYout1 : Byte := 0x2B

/-- `REG_ZOUT0`: Z sample, low byte (R27). -/
def regZout0 : Byte := 0x2C

/-- `REG_ZOUT0 + 1`: Z sample, high byte (R27, R29). -/
def regZout1 : Byte := 0x2D

/-- `INIT_VALUE`: the byte written at construction (R27, R57). -/
def initValue : Byte := 0x1F

/-- `G0` = 9.80665 as an exact fraction: numerator (R4, R56). -/
def gravityNum : Int := 980665

/-- `G0` = 9.80665 as an exact fraction: denominator (R4, R56). -/
def gravityDen : Nat := 100000

/-- FREE VALUE, parameter of a run (R8; assumption 25). Which agent moves after the n-th step. -/
opaque schedule : Nat → Machine.Agent

/-- FREE VALUE, parameter of a run (R8: "the sequence of commands the host issues"; assumption 7). What
the host does when it moves in the n-th step. -/
opaque hostMove : Nat → Machine.HostMove

/-- FREE VALUE, parameter of a run (R8, R26: the oracle; assumption 5). What the transport answers to
the read outstanding in the n-th step; `none` is "not now". -/
opaque readAnswer : Nat → Option Machine.ReadReply

/-- FREE VALUE, parameter of a run (R8, R25; assumption 5). The same for the write outstanding. -/
opaque writeAnswer : Nat → Option Machine.WriteReply

/-- FREE VALUE (assumption 4). The sign and payload bits of the NaN that `fdiv` delivers on an
invalid operation or a NaN operand. The spec states no such result and the block never performs
such a division (R72 a). -/
opaque divNanBits : Fmt → Fmt → BitVec 64

/-- FREE VALUE (assumption 4). The same for `fmul`. -/
opaque mulNanBits : Fmt → Fmt → BitVec 64

/-- FREE VALUE (assumption 12). The `kind` and `data` bits of the response word of the n-th
response when its `status` is 1: they "hold no value" (R51, R98). -/
opaque errWordBits : Nat → BitVec 195

end Sys2Proof.Config
end

