-- ==== Sys2Proof/Machine/Binary64.lean ====
section
/-! DEFINITION. The format `FMT` and its four primitives: IEEE 754 binary64, round to nearest, ties
to even (spec/30_encoding.md R56; spec/40_datapath.md R65; decision D8; spec/93 G1).
PRESUMED where it rests on the format itself: "what that format and 'correctly rounded' mean is
[from general knowledge, not in source]" (assumption 3). -/

namespace Sys2Proof.Machine

/-- Bits [62:52], the biased exponent (R56). -/
def fmtExp (x : Fmt) : Nat := (x.extractLsb' 52 11).toNat

/-- Bits [51:0], the fraction (R56). -/
def fmtFrac (x : Fmt) : Nat := (x.extractLsb' 0 52).toNat

/-- Bit 63, the sign (R56). -/
def fmtSign (x : Fmt) : Bool := x.msb

/-- Neither an infinity nor a NaN. -/
def fmtFinite (x : Fmt) : Bool := fmtExp x != 2047

/-- A NaN pattern. -/
def fmtNaN (x : Fmt) : Bool := fmtExp x == 2047 && fmtFrac x != 0

/-- An infinity. -/
def fmtInf (x : Fmt) : Bool := fmtExp x == 2047 && fmtFrac x == 0

/-- A non-zero number with a zero exponent field. -/
def fmtSubnormal (x : Fmt) : Bool := fmtExp x == 0 && fmtFrac x != 0

/-- How many of the least positive number, 2^-1074, make one. -/
def unitsPerOne : Nat := 2 ^ 1074

/-- The magnitude of a finite pattern, counted in units of 2^-1074. -/
def fmtUnits (x : Fmt) : Nat :=
  if fmtExp x = 0 then fmtFrac x else (2 ^ 52 + fmtFrac x) * 2 ^ (fmtExp x - 1)

/-- The exact value of a finite pattern. -/
def fmtValue (x : Fmt) : ℚ :=
  (if fmtSign x then -1 else 1) * ((fmtUnits x : ℚ) / (unitsPerOne : ℚ))

/-- The pattern, without its sign bit, of an infinity. -/
def infPattern : Nat := 2047 * 2 ^ 52

/-- The scale at which a magnitude of `w` whole units is rounded: its significand has 53 bits at
most, so `2 ^ roundScale w` units are the weight of its last bit. -/
def roundScale (w : Nat) : Nat := Nat.log2 w - 52

/-- `n / d` rounded to the nearest integer, ties to even. -/
def divNearestEven (n d : Nat) : Nat :=
  if d < 2 * (n % d) ∨ (2 * (n % d) = d ∧ n / d % 2 = 1) then n / d + 1 else n / d

/-- The pattern, without its sign bit, of the number nearest `n / d` units, ties to even; beyond the
largest finite number it is infinity. The significand is added onto the scaled exponent, so that a
significand that rounds up to 2^53 carries into the exponent. -/
def roundUnits (n d : Nat) : Nat :=
  let k := roundScale (n / d)
  min (k * 2 ^ 52 + divNearestEven n (d * 2 ^ k)) infPattern

/-- A pattern from its sign and its other bits. -/
def packFmt (negative : Bool) (magnitude : Nat) : Fmt :=
  BitVec.ofBool negative ++ BitVec.ofNat 63 magnitude

/-- A quiet NaN whose sign and payload are the free bits `bits`. -/
def quietNaN (bits : BitVec 64) : Fmt := bits ||| 0x7FF8000000000000#64

/-- `fconst(num/den)`: the number nearest an exact decimal, ties to even (R65). -/
def fconst (num : Int) (den : Nat) : Fmt :=
  packFmt (decide (num < 0)) (roundUnits (num.natAbs * unitsPerOne) den)

/-- `of_int(n)` (R65). -/
def ofInt16 (s : Sample16) : Fmt := fconst s.toInt 1

/-- `fdiv(x, y)`: the correctly rounded quotient (R65). -/
def fdiv (x y : Fmt) : Fmt :=
  let negative := fmtSign x != fmtSign y
  if fmtNaN x || fmtNaN y then quietNaN (Config.divNanBits x y)
  else if fmtInf x then
    if fmtInf y then quietNaN (Config.divNanBits x y) else packFmt negative infPattern
  else if fmtInf y then packFmt negative 0
  else if fmtUnits y = 0 then
    if fmtUnits x = 0 then quietNaN (Config.divNanBits x y) else packFmt negative infPattern
  else packFmt negative (roundUnits (fmtUnits x * unitsPerOne) (fmtUnits y))

/-- `fmul(x, y)`: the correctly rounded product (R65). -/
def fmul (x y : Fmt) : Fmt :=
  let negative := fmtSign x != fmtSign y
  if fmtNaN x || fmtNaN y then quietNaN (Config.mulNanBits x y)
  else if fmtInf x || fmtInf y then
    if (fmtInf x || fmtUnits x != 0) && (fmtInf y || fmtUnits y != 0) then
      packFmt negative infPattern
    else quietNaN (Config.mulNanBits x y)
  else packFmt negative (roundUnits (fmtUnits x * fmtUnits y) unitsPerOne)

end Sys2Proof.Machine
end

