-- ==== Sys2Proof/Machine/Datapath.lean ====
section
/-! DEFINITION. The datapath: unpack16, range_decode, scale_modifier, to_g, to_ms2, accel
(spec/40_datapath.md R60 to R67, R73). Every function is total; none touches the state. -/

namespace Sys2Proof.Machine

/-- `combined = (high << 8) | low` on integers (R60, R71 a). -/
def combined (low high : Byte) : Nat := (high.toNat <<< 8) ||| low.toNat

/-- The integer `unpack16(low, high)` denotes: the sign correction of R60, R71 b and c. -/
def unpackInt (low high : Byte) : Int :=
  if combined low high ≥ 32768 then (combined low high : Int) - 65536 else combined low high

/-- `unpack16(low, high)` as the 16-bit signed result register holds it (R60, R53). -/
def unpack16 (low high : Byte) : Sample16 := BitVec.ofInt 16 (unpackInt low high)

/-- `range_decode(b)`: equality of the whole byte with five values (R62; spec/90 C4). -/
def rangeDecode (b : Byte) : RangeSetting :=
  if b = 0x00 then .r2g
  else if b = 0x08 then .r4g
  else if b = 0x10 then .r6g
  else if b = 0x18 then .r8g
  else if b = 0x20 then .r16g
  else .unknown

/-- `code(r)`, the integer the source reports (R7, R54). -/
def rangeCode : RangeSetting → Int
  | .r2g => 2
  | .r4g => 4
  | .r6g => 6
  | .r8g => 8
  | .r16g => 16
  | .unknown => -1

/-- `scale_modifier(b)`: the divisor, with the ±2g modifier as the explicit fallback for a byte that
is none of the five (R64, R107). The ±6g constant is the decimal literal as written (R64, N17). -/
def scaleModifier (b : Byte) : Fmt :=
  if b = 0x00 then fconst 16384 1
  else if b = 0x08 then fconst 8192 1
  else if b = 0x10 then fconst 546133333 100000
  else if b = 0x18 then fconst 4096 1
  else if b = 0x20 then fconst 2048 1
  else fconst 16384 1

/-- `G0`, standard gravity (R56, R67). -/
def gravity : Fmt := fconst Config.gravityNum Config.gravityDen

/-- `to_g(s, b)` (R66). -/
def toG (s : Sample16) (b : Byte) : Fmt := fdiv (ofInt16 s) (scaleModifier b)

/-- `to_ms2(s, b)`: multiplied after the division, not folded into the divisor (R67). -/
def toMs2 (s : Sample16) (b : Byte) : Fmt := fmul (toG s b) gravity

/-- One component in the units asked for (R73). -/
def inUnits (u : AccelUnits) (s : Sample16) (b : Byte) : Fmt :=
  match u with
  | .g => toG s b
  | .ms2 => toMs2 s b

/-- `accel(s0, s1, s2, b, u)` (R73): the same byte scales all three components. -/
def accel (x y z : Sample16) (b : Byte) (u : AccelUnits) : Payload :=
  .accel (inUnits u x b) (inUnits u y b) (inUnits u z b)

end Sys2Proof.Machine
end

