-- ==== Sys2Proof/Syntax.lean ====
section
/-! DEFINITION. The command set: one constructor per row of spec/opcode_table.json
(spec/30_encoding.md R45, R48). -/

namespace Sys2Proof

/-- The nine commands of R45. Operands are the unsigned immediates of R48; the device address of
`INIT` travels beside the word, on `cmd_daddr` (R49), and is no field of the constructor. -/
inductive Instr where
  /-- `INIT`: construction (R75). -/
  | init
  /-- `RDAXIS base`: one raw axis sample (R76). -/
  | rdaxis (base : Byte)
  /-- `RDRANGE.DEC`: the decoded range (R77). -/
  | rdrangeDec
  /-- `RDRANGE.RAW`: the raw range byte (R78). -/
  | rdrangeRaw
  /-- `RDACCEL.G`: one acceleration sample in g-units (R79). -/
  | rdaccelG
  /-- `RDACCEL.MS2`: one acceleration sample in m/s² (R80). -/
  | rdaccelMs2
  /-- `UNPACK low, high`: the register unpacker on two immediates (R68). -/
  | unpack (low high : Byte)
  /-- `DECRANGE byte`: the range decode of an immediate (R69). -/
  | decrange (byte : Byte)
  /-- `SCALE byte`: the scale-modifier lookup of an immediate (R70). -/
  | scale (byte : Byte)
  deriving DecidableEq, Repr

/-! The three pseudo-instructions of R59 are other names of `RDAXIS` words. -/

/-- `RDX` expands to `RDAXIS 0x28` (R59). -/
abbrev Instr.rdx : Instr := .rdaxis 0x28

/-- `RDY` expands to `RDAXIS 0x2A` (R59). -/
abbrev Instr.rdy : Instr := .rdaxis 0x2A

/-- `RDZ` expands to `RDAXIS 0x2C` (R59). -/
abbrev Instr.rdz : Instr := .rdaxis 0x2C

end Sys2Proof
end

