-- ==== Sys2Proof/WellFormed.lean ====
section
/-! DEFINITION. Which commands are legal by their operands alone (spec/30_encoding.md R48, R52;
spec/60_exceptions.md R102 case 2). -/

namespace Sys2Proof

/-- A command whose operand values the spec gives a meaning. The one check by value: the `base` of
`RDAXIS` is 0x00..0xFE (R48, R102 case 2). Every other operand value is legal (R68 to R70). -/
def Instr.wellFormed : Instr → Bool
  | .init => true
  | .rdaxis base => base != 0xFF
  | .rdrangeDec => true
  | .rdrangeRaw => true
  | .rdaccelG => true
  | .rdaccelMs2 => true
  | .unpack _ _ => true
  | .decrange _ => true
  | .scale _ => true

end Sys2Proof
end

