-- ==== Sys2Proof/Decode.lean ====
section
/-! DEFINITION. The command word: fields, decoder, encoder and the opcode table
(spec/30_encoding.md R47, R48, R52). -/

namespace Sys2Proof

/-- `CMD[23:20]`, the opcode (R47). -/
def fieldOp (w : CommandWord) : BitVec 4 := w.extractLsb' 20 4

/-- `CMD[19:16]`, the modifier (R47). -/
def fieldMod (w : CommandWord) : BitVec 4 := w.extractLsb' 16 4

/-- `CMD[15:8]`, the second immediate operand (R47). -/
def fieldB (w : CommandWord) : Byte := w.extractLsb' 8 8

/-- `CMD[7:0]`, the first immediate operand (R47). -/
def fieldA (w : CommandWord) : Byte := w.extractLsb' 0 8

/-- Why a word selects no row of R48 (R52; R102 case 1). -/
inductive DecodeError where
  /-- `op` is one of 0x0, 0x5, 0x6, 0x7, 0xB to 0xF. -/
  | reservedOpcode
  /-- `mod` is not 0x0, or not one of 0x0 and 0x1 for RDRANGE and RDACCEL. -/
  | reservedModifier
  /-- `b` is not 0x00 for a command other than UNPACK. -/
  | reservedB
  /-- `a` is not 0x00 for INIT, RDRANGE or RDACCEL. -/
  | reservedA
  deriving DecidableEq, Repr

/-- Go on only if the modifier is zero (R52). -/
def needModZero (w : CommandWord) (k : Except DecodeError Instr) : Except DecodeError Instr :=
  if fieldMod w = 0 then k else .error .reservedModifier

/-- Go on only if the `b` field is zero (R52). -/
def needBZero (w : CommandWord) (k : Except DecodeError Instr) : Except DecodeError Instr :=
  if fieldB w = 0 then k else .error .reservedB

/-- Go on only if the `a` field is zero (R52). -/
def needAZero (w : CommandWord) (k : Except DecodeError Instr) : Except DecodeError Instr :=
  if fieldA w = 0 then k else .error .reservedA

/-- `mod[0]` selects between two forms; every other modifier is reserved (R48, R52). -/
def byModifier (w : CommandWord) (form0 form1 : Except DecodeError Instr) :
    Except DecodeError Instr :=
  if fieldMod w = 0 then form0
  else if fieldMod w = 1 then form1
  else .error .reservedModifier

/-- "Decoding reads `op`, then `mod`, then checks that every field the command does not use is
zero" (R47, R48, R52). Total: every word is a command or is rejected by name. `RDAXIS 0xFF` selects
its row and is refused by its meaning (R52 last but one sentence). -/
def decode (w : CommandWord) : Except DecodeError Instr :=
  if fieldOp w = 0x1 then needModZero w (needBZero w (needAZero w (.ok .init)))
  else if fieldOp w = 0x2 then needModZero w (needBZero w (.ok (.rdaxis (fieldA w))))
  else if fieldOp w = 0x3 then
    byModifier w (needBZero w (needAZero w (.ok .rdrangeDec)))
      (needBZero w (needAZero w (.ok .rdrangeRaw)))
  else if fieldOp w = 0x4 then
    byModifier w (needBZero w (needAZero w (.ok .rdaccelG)))
      (needBZero w (needAZero w (.ok .rdaccelMs2)))
  else if fieldOp w = 0x8 then needModZero w (.ok (.unpack (fieldA w) (fieldB w)))
  else if fieldOp w = 0x9 then needModZero w (needBZero w (.ok (.decrange (fieldA w))))
  else if fieldOp w = 0xA then needModZero w (needBZero w (.ok (.scale (fieldA w))))
  else .error .reservedOpcode

/-- The word with the four fields of R47, `op` in the most significant place. -/
def assembleFields (op modifier : BitVec 4) (b a : Byte) : CommandWord := op ++ modifier ++ b ++ a

/-- The word of a command (R48). -/
def encode : Instr → CommandWord
  | .init => assembleFields 0x1 0x0 0x00 0x00
  | .rdaxis base => assembleFields 0x2 0x0 0x00 base
  | .rdrangeDec => assembleFields 0x3 0x0 0x00 0x00
  | .rdrangeRaw => assembleFields 0x3 0x1 0x00 0x00
  | .rdaccelG => assembleFields 0x4 0x0 0x00 0x00
  | .rdaccelMs2 => assembleFields 0x4 0x1 0x00 0x00
  | .unpack low high => assembleFields 0x8 0x0 high low
  | .decrange byte => assembleFields 0x9 0x0 0x00 byte
  | .scale byte => assembleFields 0xA 0x0 0x00 byte

/-- One row of the table of R48: `pattern` is the column "match". -/
structure Row where
  pattern : CommandWord
  mask : CommandWord
  deriving DecidableEq, Repr

/-- "A word `w` selects a row when `(w AND mask) = match`" (R48). -/
def Row.selects (r : Row) (w : CommandWord) : Bool := (w &&& r.mask) == r.pattern

/-- The row of R48 that a command's words select. -/
def Instr.row : Instr → Row
  | .init => ⟨0x100000, 0xFFFFFF⟩
  | .rdaxis _ => ⟨0x200000, 0xFFFF00⟩
  | .rdrangeDec => ⟨0x300000, 0xFFFFFF⟩
  | .rdrangeRaw => ⟨0x310000, 0xFFFFFF⟩
  | .rdaccelG => ⟨0x400000, 0xFFFFFF⟩
  | .rdaccelMs2 => ⟨0x410000, 0xFFFFFF⟩
  | .unpack _ _ => ⟨0x800000, 0xFF0000⟩
  | .decrange _ => ⟨0x900000, 0xFFFF00⟩
  | .scale _ => ⟨0xA00000, 0xFFFF00⟩

/-- The nine rows of R48, in the table's order. -/
def commandTable : List Row :=
  [Instr.row .init, Instr.row (.rdaxis 0), Instr.row .rdrangeDec, Instr.row .rdrangeRaw,
    Instr.row .rdaccelG, Instr.row .rdaccelMs2, Instr.row (.unpack 0 0), Instr.row (.decrange 0),
    Instr.row (.scale 0)]

/-- The number of a command word: bits above `nbits` are zero. A number of more than 24 bits is no
command word (R47: one length, 24 bits). -/
def tableWord (nbits w : Nat) : Option CommandWord :=
  if w % 2 ^ nbits < 2 ^ 24 then some (BitVec.ofNat 24 (w % 2 ^ nbits)) else none

/-- The command the decoder reads from the bits of `w`, numbered as spec/opcode_table.json numbers
them. A command is one 24-bit word presented as a value (R46, R47), so no byte order enters. -/
def decodeTableWord (nbits w : Nat) : Option Instr :=
  match tableWord nbits w with
  | none => none
  | some word =>
    match decode word with
    | .ok i => some i
    | .error _ => none

end Sys2Proof
end

