-- ==== Sys2Proof/Machine/State.lean ====
section
/-! DEFINITION. The state of the block and its ports, the reasons a step can stop, and the state
after reset (spec/10_state.md R10 to R22; spec/30_encoding.md R46). -/

namespace Sys2Proof.Machine

/-- The whole state. The first eight fields are the record `State` of spec/10_state.md; the others
are the block's ports and the environment behind them (R8, R46): what stands on the inputs and what
has gone out. -/
structure State where
  /-- The device address register; `none` is "unconstructed" (R10, R11). -/
  daddr : Option DeviceAddress
  /-- Where the sequencer is (R13). -/
  phase : Phase
  /-- The command in progress (R14). -/
  cmd : Option Command
  /-- Holding register `LO`: the low byte of the sample being read (R12). -/
  lo : Option Byte
  /-- Holding register `S[0]`: the X sample (R12). -/
  s0 : Option Sample16
  /-- Holding register `S[1]`: the Y sample (R12). -/
  s1 : Option Sample16
  /-- Holding register `S[2]`: the Z sample (R12). -/
  s2 : Option Sample16
  /-- Holding register `RB`: the raw range byte (R12). -/
  rb : Option Byte
  /-- Command port: the command the host offers, which stays there until it is accepted (R46, R119). -/
  port : Option Offer
  /-- The value on `cmd_daddr` at the moment the last offer was accepted (R49). -/
  cmdDaddr : DeviceAddress
  /-- The `rst` input (R46, R115). -/
  rst : Bool
  /-- Bus-master port: the answers the transport has given to reads and the block has not taken. In a
  run there is one at most, to the read outstanding; a longer list is the sequence of replies of
  which the big-step rules are a function. None means that the read has not completed
  (R25, R26, R103; assumption 5). -/
  reads : List ReadReply
  /-- Bus-master port: the same for writes (R25; assumption 5). -/
  writes : List WriteReply
  /-- The bus trace: every transaction that has completed or failed and whose answer the sequencer has
  taken, oldest first (R97, R126). DESIGN CHOICE: it enters the trace as the answer is taken, not when
  it is given (assumption 17). -/
  trace : List Transaction
  /-- Response port: the responses delivered, oldest first (R46). -/
  rsp : List Response
  /-- How many of them the host has taken (R8, R119; assumption 7). -/
  taken : Nat
  /-- The agent that moves in the next step (R8; assumption 25). -/
  turn : Agent
  /-- How many steps have been taken; the parameters of a run are read at it (assumption 25). -/
  moves : Nat
  deriving DecidableEq, Repr

/-- Reasons the machine stops with a fault. All are raised by the phase table only, in states that
no run reaches (R22); safe: the machine stops where the spec states no result. -/
inductive Fault where
  /-- A phase reads a holding register that holds no value (R12, R21; spec/93 U9 calls that read a
  fault of the model). Raised by `whenHeld`. Safe. -/
  | holdingUnwritten
  /-- The phase is not one of the command in progress (R22 a). Raised by `phaseStep`. Safe. -/
  | phaseMismatch
  /-- A bus-reading phase with `daddr = None` (R22 c). Raised by `phaseStep`. Safe. -/
  | addressUnset
  deriving DecidableEq, Repr

/-- Refused commands (R101, R102). The spec gives them no meaning and makes no promise about them;
safe: nothing is claimed of a run that ends so. -/
inductive Refusal where
  /-- An instruction with no meaning yet; no arm of `exec` answers it. Safe. -/
  | notModelled (mnemonic : String)
  /-- R102 case 1: the word at the command port selects no row of R48. Raised by `fetch`. Safe. -/
  | reservedWord (reason : DecodeError)
  /-- R102 case 2: `RDAXIS 0xFF`. Raised by `execRdaxis` (and by `phaseStep` in states no run
  reaches). Safe. -/
  | offsetOutOfRange
  /-- R102 case 3: a bus-reading command while `daddr = None`. Raised by `whenConstructed`. Safe. -/
  | unconstructed
  /-- R102 case 4: INIT on a constructed block. Raised by `execInit`. Safe. -/
  | alreadyConstructed
  /-- R102 case 5: `rst` asserted while a command is in progress (R116). Raised by `fetch`. Safe. -/
  | resetWhileBusy
  deriving DecidableEq, Repr

/-- The outcome of a step or of a command (R9): TransportError is a next state that has delivered
`err`; a stuck command is a next state that waits (R103). -/
abbrev Out := Host.Outcome State Fault Refusal

/-- The state right after reset: the values of R21 (R115), nothing on the inputs and nothing gone
out (assumption 6). -/
def State.reset : State where
  daddr := none
  phase := .idle
  cmd := none
  lo := none
  s0 := none
  s1 := none
  s2 := none
  rb := none
  port := none
  cmdDaddr := ⟨0⟩
  rst := false
  reads := []
  writes := []
  trace := []
  rsp := []
  taken := 0
  turn := .host
  moves := 0

end Sys2Proof.Machine
end

