-- ==== Sys2Proof/Machine/Operands.lean ====
section
/-! DEFINITION. The operand forms: the second offset of a sample, the value on `cmd_daddr`, the
contents of a holding register, and what the block latches of a command
(spec/20_memory.md R33; spec/30_encoding.md R48, R49; spec/10_state.md R12, R14). The 8-bit
immediates of R48 are constructor arguments of `Instr`, taken by `decode` as they stand. -/

namespace Sys2Proof.Machine

/-- `base + 1`, computed on unbounded integers; `none` where it lies outside the 8-bit offset space
(R33). -/
def highOffset (base : Byte) : Option Byte :=
  if base.toNat + 1 < 256 then some (BitVec.ofNat 8 (base.toNat + 1)) else none

/-- What the block latches when it accepts a bus command, with the value on `cmd_daddr` for INIT
(R14, R49, R81); `none` for the pure commands, which are never in progress (R13). -/
def latchedCommand (aIn : DeviceAddress) : Instr → Option Command
  | .init => some (.init aIn)
  | .rdaxis base => some (.rdaxis base)
  | .rdrangeDec => some (.rdrange false)
  | .rdrangeRaw => some (.rdrange true)
  | .rdaccelG => some (.rdaccel .g)
  | .rdaccelMs2 => some (.rdaccel .ms2)
  | .unpack _ _ => none
  | .decrange _ => none
  | .scale _ => none

/-- The first phase of a command (R81). -/
def Command.firstPhase : Command → Phase
  | .init _ => .i0
  | .rdaxis _ => .a0
  | .rdrange _ => .g0
  | .rdaccel _ => .c0

/-- Read a holding register: one that holds no value stops the machine (R12; spec/93 U9). -/
def whenHeld {α : Type} (register : Option α) (k : α → Out) : Out :=
  match register with
  | some v => k v
  | none => .fault .holdingUnwritten

end Sys2Proof.Machine
end

