-- ==== Sys2Proof/Machine/Ops.lean ====
section
/-! DEFINITION. The named operations: accepting a command, one bus transaction, latching its result,
delivering the response, taking the one exception, reset (spec/00_scope.md R6;
spec/20_memory.md R25; spec/41_bus_commands.md R81; spec/60_exceptions.md R97, R101;
spec/70_reset_and_hazards.md R115). -/

namespace Sys2Proof.Machine

/-- No command in progress and no holding register with a value: how every command ends
(R12, R14, R81, R97, R126). -/
def State.quiet (s : State) : State :=
  { s with phase := .idle, cmd := none, lo := none, s0 := none, s1 := none, s2 := none, rb := none }

/-- The block delivers a response (R46 port 2). -/
def State.deliver (s : State) (r : Response) : State := { s with rsp := s.rsp ++ [r] }

/-- A completed or failed transaction enters the bus trace (R97, R126), at the moment the sequencer takes
its answer. DESIGN CHOICE (assumption 17): the spec states no moment while a command is in progress. -/
def State.record (s : State) (t : Transaction) : State := { s with trace := s.trace ++ [t] }

/-- Entering a command from `IDLE`: latch it, go to its first phase (R81). -/
def State.enter (s : State) (c : Command) : State := { s with cmd := some c, phase := c.firstPhase }

/-- `LO <- Some v`, and on to phase `p` (R81). -/
def State.latchLo (s : State) (v : Byte) (p : Phase) : State := { s with lo := some v, phase := p }

/-- `S[0] <- Some v`, and on to phase `p` (R81). -/
def State.latchS0 (s : State) (v : Sample16) (p : Phase) : State :=
  { s with s0 := some v, phase := p }

/-- `S[1] <- Some v`, and on to phase `p` (R81). -/
def State.latchS1 (s : State) (v : Sample16) (p : Phase) : State :=
  { s with s1 := some v, phase := p }

/-- `S[2] <- Some v`, and on to phase `p` (R81). -/
def State.latchS2 (s : State) (v : Sample16) (p : Phase) : State :=
  { s with s2 := some v, phase := p }

/-- `RB <- Some v` (R81, phase C6). -/
def State.latchRb (s : State) (v : Byte) : State := { s with rb := some v }

/-- `daddr <- Some a` (R75). -/
def State.construct (s : State) (a : DeviceAddress) : State := { s with daddr := some a }

/-- `finish(p)`: working state cleared, `respond Ok(p)` (R81). -/
def finish (s : State) (p : Payload) : Out := .next (s.quiet.deliver (.ok p))

/-- TAKING THE EXCEPTION (R97): the command ends, working state is cleared, `daddr` keeps its value,
`Err(e)` goes to the host, nothing else is saved or changed. There is no return from it: the
block is in `IDLE` and takes the next command as after an `Ok` (R105). -/
def transportError (s : State) (e : TErr) : Out := .next (s.quiet.deliver (.err e))

/-- `v <- BusRead(d, r)` and then `k v` (R6, R25; the common paragraph of spec/41_bus_commands.md). A read that does not
complete leaves the block where it is (R103). The trace grows here, as the answer is taken (DESIGN CHOICE,
assumption 17). -/
def busRead (s : State) (d : DeviceAddress) (r : Byte) (k : Byte → State → Out) : Out :=
  match s.reads with
  | [] => .next s
  | .byte v :: rest => k v ({ s with reads := rest }.record (.read d r (.byte v)))
  | .fail e :: rest => transportError ({ s with reads := rest }.record (.read d r (.fail e))) e

/-- `BusWrite(d, r, v)` and then `k` (R6, R25). A write that does not complete leaves the block where
it is (R103). The trace grows here, as the answer is taken (DESIGN CHOICE, assumption 17). -/
def busWrite (s : State) (d : DeviceAddress) (r v : Byte) (k : State → Out) : Out :=
  match s.writes with
  | [] => .next s
  | .ack :: rest => k ({ s with writes := rest }.record (.write d r v .ack))
  | .fail e :: rest => transportError ({ s with writes := rest }.record (.write d r v (.fail e))) e

/-- A command is accepted only in `IDLE`; while another is in progress it waits and nothing happens
(R46; assumption 10). -/
def whenIdle (s : State) (k : Out) : Out := if s.phase = .idle then k else .next s

/-- The precondition `daddr = Some d` of the bus-reading commands (R102 case 3). -/
def whenConstructed (s : State) (k : DeviceAddress → Out) : Out :=
  match s.daddr with
  | some d => k d
  | none => .refused .unconstructed

/-- The block accepts the offer at the command port (R46, R49). No transaction is outstanding yet, so
no answer stands at the bus-master port (R34; assumption 9). -/
def State.accept (s : State) (o : Offer) : State :=
  { s with port := none, cmdDaddr := o.daddr, reads := [], writes := [] }

/-- A step is taken: the next turn is the schedule's (R8; assumption 25). -/
def State.pass (s : State) : State :=
  { s with turn := Config.schedule s.moves, moves := s.moves + 1 }

/-- `rst` asserted in `IDLE` (R115): the block's own state as R21 gives it, no bus transaction, the
ports untouched. The assertion is one event and is over (assumption 8). -/
def State.resetBlock (s : State) : State := { s.quiet with daddr := none, rst := false }

end Sys2Proof.Machine
end

