-- ==== Sys2Proof/Machine/BusCommands.lean ====
section
/-! DEFINITION. The bus commands, big-step (spec/41_bus_commands.md R75 to R80): the whole command as
a function of the bus replies. Where a transaction does not complete the command stays at that line,
in the phase and with the holding registers the rule's comments name (R103). -/

namespace Sys2Proof.Machine

/-- `INIT` (R75). -/
def execInit (s : State) : Out :=
  whenIdle s <|
    match s.daddr with
    | some _ => .refused .alreadyConstructed
    | none =>
      busWrite (s.enter (.init s.cmdDaddr)) s.cmdDaddr Config.regCtrl4 Config.initValue fun t =>
        finish (t.construct s.cmdDaddr) .unit

/-- `RDAXIS base` (R76); `base = 0xFF` is refused (R33, R102 case 2). -/
def execRdaxis (base : Byte) (s : State) : Out :=
  whenIdle s <|
    match highOffset base with
    | none => .refused .offsetOutOfRange
    | some base1 =>
      whenConstructed s fun d =>
        busRead (s.enter (.rdaxis base)) d base fun low t =>
          busRead (t.latchLo low .a1) d base1 fun high t =>
            finish t (.sample (unpack16 low high))

/-- The one read of CTRL_REG5 of both RDRANGE forms; `respond` makes the payload (R77, R78). -/
def readRange (raw : Bool) (respond : Byte → Payload) (s : State) : Out :=
  whenIdle s <|
    whenConstructed s fun d =>
      busRead (s.enter (.rdrange raw)) d Config.regCtrl5 fun b t => finish t (respond b)

/-- `RDRANGE.DEC` (R77). -/
def execRdrangeDec (s : State) : Out := readRange false (fun b => .decoded (rangeDecode b)) s

/-- `RDRANGE.RAW` (R78). -/
def execRdrangeRaw (s : State) : Out := readRange true (fun b => .raw b) s

/-- The seven reads of both RDACCEL forms (R79, R80): samples X, Y, Z, then the range byte. -/
def readAccel (u : AccelUnits) (s : State) : Out :=
  whenIdle s <|
    whenConstructed s fun d =>
      busRead (s.enter (.rdaccel u)) d Config.regXout0 fun xl t =>
      busRead (t.latchLo xl .c1) d Config.regXout1 fun xh t =>
      busRead (t.latchS0 (unpack16 xl xh) .c2) d Config.regYout0 fun yl t =>
      busRead (t.latchLo yl .c3) d Config.regYout1 fun yh t =>
      busRead (t.latchS1 (unpack16 yl yh) .c4) d Config.regZout0 fun zl t =>
      busRead (t.latchLo zl .c5) d Config.regZout1 fun zh t =>
      busRead (t.latchS2 (unpack16 zl zh) .c6) d Config.regCtrl5 fun b t =>
        finish (t.latchRb b) (accel (unpack16 xl xh) (unpack16 yl yh) (unpack16 zl zh) b u)

/-- `RDACCEL.G` (R79). -/
def execRdaccelG (s : State) : Out := readAccel .g s

/-- `RDACCEL.MS2` (R80). -/
def execRdaccelMs2 (s : State) : Out := readAccel .ms2 s

end Sys2Proof.Machine
end

