-- ==== Sys2Proof/Machine/PureCommands.lean ====
section
/-! DEFINITION. The pure commands UNPACK, DECRANGE, SCALE (spec/40_datapath.md R68 to R70): accepted
and finished in one step from `IDLE` (R81), constructed or not (D24), no bus transaction, no state
of the block written. -/

namespace Sys2Proof.Machine

/-- `UNPACK low, high` (R68). -/
def execUnpack (low high : Byte) (s : State) : Out :=
  whenIdle s (.next (s.deliver (.ok (.sample (unpack16 low high)))))

/-- `DECRANGE byte` (R69). -/
def execDecrange (byte : Byte) (s : State) : Out :=
  whenIdle s (.next (s.deliver (.ok (.decoded (rangeDecode byte)))))

/-- `SCALE byte` (R70). -/
def execScale (byte : Byte) (s : State) : Out :=
  whenIdle s (.next (s.deliver (.ok (.modifier (scaleModifier byte)))))

end Sys2Proof.Machine
end

