-- ==== Sys2Proof/Machine/Dispatch.lean ====
section
/-! DEFINITION. One arm per command of the opcode table (spec/30_encoding.md R45, R48). -/

namespace Sys2Proof.Machine

def exec (i : Instr) (s : State) : Host.Outcome State Fault Refusal :=
  match i with
  | .init => Sys2Proof.Machine.execInit s
  | .rdaxis base => Sys2Proof.Machine.execRdaxis base s
  | .rdrangeDec => Sys2Proof.Machine.execRdrangeDec s
  | .rdrangeRaw => Sys2Proof.Machine.execRdrangeRaw s
  | .rdaccelG => Sys2Proof.Machine.execRdaccelG s
  | .rdaccelMs2 => Sys2Proof.Machine.execRdaccelMs2 s
  | .unpack low high => Sys2Proof.Machine.execUnpack low high s
  | .decrange byte => Sys2Proof.Machine.execDecrange byte s
  | .scale byte => Sys2Proof.Machine.execScale byte s

end Sys2Proof.Machine
end

