-- ==== Sys2Proof/Machine/Sequencer.lean ====
section
/-! DEFINITION. The phase table (spec/41_bus_commands.md R81): one step per bus transaction of the
command in progress. -/

namespace Sys2Proof.Machine

/-- Column "issue" of R81: the transaction outstanding in a phase (R13). -/
def issued (s : State) : Option Request :=
  match s.phase, s.cmd with
  | .i0, some (.init a) => some (.write a Config.regCtrl4 Config.initValue)
  | .a0, some (.rdaxis base) => s.daddr.map (.read · base)
  | .a1, some (.rdaxis base) =>
    match s.daddr, highOffset base with
    | some d, some base1 => some (.read d base1)
    | _, _ => none
  | .g0, some (.rdrange _) => s.daddr.map (.read · Config.regCtrl5)
  | .c0, some (.rdaccel _) => s.daddr.map (.read · Config.regXout0)
  | .c1, some (.rdaccel _) => s.daddr.map (.read · Config.regXout1)
  | .c2, some (.rdaccel _) => s.daddr.map (.read · Config.regYout0)
  | .c3, some (.rdaccel _) => s.daddr.map (.read · Config.regYout1)
  | .c4, some (.rdaccel _) => s.daddr.map (.read · Config.regZout0)
  | .c5, some (.rdaccel _) => s.daddr.map (.read · Config.regZout1)
  | .c6, some (.rdaccel _) => s.daddr.map (.read · Config.regCtrl5)
  | _, _ => none

/-- The read of a bus-reading phase from the block's own address (R25: "always `daddr`"). -/
def phaseRead (s : State) (r : Byte) (k : Byte → State → Out) : Out :=
  match s.daddr with
  | some d => busRead s d r k
  | none => .fault .addressUnset

/-- Column "on success" of the rows that pair a high byte with `LO`. -/
def withSample (t : State) (high : Byte) (k : Sample16 → Out) : Out :=
  whenHeld t.lo fun low => k (unpack16 low high)

/-- Phase A1 reads `base + 1` (R81), refused where that leaves the offset space (R102 case 2). -/
def phaseReadHigh (s : State) (base : Byte) (k : Byte → State → Out) : Out :=
  match highOffset base with
  | some base1 => phaseRead s base1 k
  | none => .refused .offsetOutOfRange

/-- The payload of RDRANGE by its `raw` flag (R77, R78, R81). -/
def rangePayload (raw : Bool) (v : Byte) : Payload :=
  if raw then .raw v else .decoded (rangeDecode v)

/-- Phase C6 on success: `finish(accel(S[0], S[1], S[2], v, units))` with `v` in `RB` (R81). -/
def finishAccel (t : State) (u : AccelUnits) : Out :=
  whenHeld t.s0 fun x => whenHeld t.s1 fun y => whenHeld t.s2 fun z => whenHeld t.rb fun b =>
    finish t (accel x y z b u)

/-- One row of the table of R81. A phase whose transaction does not complete has no next step: the
block stays in it (R103). -/
def phaseStep (s : State) : Out :=
  match s.phase, s.cmd with
  | .idle, none => .next s
  | .i0, some (.init a) =>
    busWrite s a Config.regCtrl4 Config.initValue fun t => finish (t.construct a) .unit
  | .a0, some (.rdaxis base) => phaseRead s base fun v t => .next (t.latchLo v .a1)
  | .a1, some (.rdaxis base) =>
    phaseReadHigh s base fun v t => withSample t v fun x => finish t (.sample x)
  | .g0, some (.rdrange raw) =>
    phaseRead s Config.regCtrl5 fun v t => finish t (rangePayload raw v)
  | .c0, some (.rdaccel _) =>
    phaseRead s Config.regXout0 fun v t => .next (t.latchLo v .c1)
  | .c1, some (.rdaccel _) =>
    phaseRead s Config.regXout1 fun v t => withSample t v fun x => .next (t.latchS0 x .c2)
  | .c2, some (.rdaccel _) =>
    phaseRead s Config.regYout0 fun v t => .next (t.latchLo v .c3)
  | .c3, some (.rdaccel _) =>
    phaseRead s Config.regYout1 fun v t => withSample t v fun x => .next (t.latchS1 x .c4)
  | .c4, some (.rdaccel _) =>
    phaseRead s Config.regZout0 fun v t => .next (t.latchLo v .c5)
  | .c5, some (.rdaccel _) =>
    phaseRead s Config.regZout1 fun v t => withSample t v fun x => .next (t.latchS2 x .c6)
  | .c6, some (.rdaccel u) =>
    phaseRead s Config.regCtrl5 fun v t => finishAccel (t.latchRb v) u
  | _, _ => .fault .phaseMismatch

/-- `n` rows of the phase table, stopping at a fault or a refusal. -/
def runPhases : Nat → State → Out
  | 0, s => .next s
  | n + 1, s =>
    match phaseStep s with
    | .next t => runPhases n t
    | .fault r => .fault r
    | .refused r => .refused r

end Sys2Proof.Machine
end

