-- ==== Sys2Proof/Machine/Fetch.lean ====
section
/-! DEFINITION. What the block attends to in its turn: its `rst` input, the command in progress, or the
command port (spec/30_encoding.md R46; spec/60_exceptions.md R102; spec/70_reset_and_hazards.md
R115, R116). -/

namespace Sys2Proof.Machine

/-- Either the step is settled without a new command, or a command is accepted in a state. -/
inductive Fetched where
  | settled (o : Out)
  | accepted (i : Instr) (s : State)

/-- The `rst` input, asserted (R115 in `IDLE`, R116 during a command). -/
def onReset (s : State) : Out :=
  if s.phase = .idle then .next s.resetBlock else .refused .resetWhileBusy

/-- The command port in `IDLE`: nothing offered, a reserved word (R102 case 1), or a command. -/
def atPort (s : State) : Fetched :=
  match s.port with
  | none => .settled (.next s)
  | some o =>
    match decode o.word with
    | .error e => .settled (.refused (.reservedWord e))
    | .ok i => .accepted i (s.accept o)

/-- `rst` first (assumption 8), then the command in progress, then the command port: a further
command is not accepted while one is in progress (R46). -/
def fetch (s : State) : Fetched :=
  if s.rst then .settled (onReset s)
  else if s.phase = .idle then atPort s
  else .settled (phaseStep s)

/-- `s` with the command word numbered `w` at the command port, beside the address that stands on
`cmd_daddr`, and the block ready to accept it: its turn, `rst` low and no command in progress. -/
def placeCommand (s : State) (nbits w : Nat) : State :=
  { s.quiet with
    rst := false
    turn := .sequencer
    port := some ⟨BitVec.ofNat 24 (w % 2 ^ nbits), s.cmdDaddr⟩ }

end Sys2Proof.Machine
end

