-- ==== Sys2Proof/Machine/Agents.lean ====
section
/-! DEFINITION. The step of each agent (spec/00_scope.md R8): the host, the sequencer of the block, the
bus transport with the device behind it. -/

namespace Sys2Proof.Machine

/-- One move of the host. It holds an offer stable until it is accepted (R119) and takes responses
oldest first (R46). -/
def hostAct (m : HostMove) (s : State) : State :=
  match m with
  | .wait => s
  | .offer o => if s.port = none then { s with port := some o } else s
  | .take => { s with taken := min (s.taken + 1) s.rsp.length }
  | .assertRst => { s with rst := true }

/-- The host's step: the move is a parameter of the run (R8). -/
def hostStep (s : State) : State := hostAct (Config.hostMove s.moves) s.pass

/-- The transport answers the transaction outstanding, once: with `r` if it is a read, with `w` if it
is a write, and not at all if that is `none` (R25, R103). The answer stands at the port, and the transaction
enters the trace when the sequencer takes it (DESIGN CHOICE, assumption 17). -/
def busAct (r : Option ReadReply) (w : Option WriteReply) (s : State) : State :=
  match issued s with
  | some (.read _ _) => if s.reads = [] then { s with reads := r.toList } else s
  | some (.write _ _ _) => if s.writes = [] then { s with writes := w.toList } else s
  | none => s

/-- The step of the bus: the answer is the oracle's, under no law (R8, R26). -/
def busStep (s : State) : State :=
  busAct (Config.readAnswer s.moves) (Config.writeAnswer s.moves) s.pass

/-- The sequencer's step: `rst`, or one phase of the command in progress, or the acceptance of the
command at the port, which goes to its first phase or, when it is pure, is finished at once
(R46, R81, R115). -/
def sequencerStep (s : State) : Out :=
  match fetch s with
  | .settled o => o
  | .accepted i t => exec i t

end Sys2Proof.Machine
end

