-- ==== Sys2Proof/Machine/Step.lean ====
section
/-! DEFINITION. One step of the machine: one step of the agent whose turn it is (spec/00_scope.md R8). -/

namespace Sys2Proof.Machine

/-- One step (assumptions 8, 9, 25). -/
def step (s : State) : Host.Outcome State Fault Refusal :=
  match s.turn with
  | .host => .next (hostStep s)
  | .sequencer => sequencerStep s.pass
  | .bus => .next (busStep s)

/-- The state in which the very next step accepts the command word `w` (assumption 13). -/
def State.withFetchWord (s : State) (nbits w : Nat) : State := placeCommand s nbits w

end Sys2Proof.Machine
end

