-- ==== Sys2Proof/Machine/Assembler.lean ====
section
/-! DEFINITION. Assembler syntax and pseudo-instructions (spec/30_encoding.md R58, R59; numbers as in
spec/00_scope.md R5). Text is a list of characters. What R58 leaves open is assumption 20. -/

namespace Sys2Proof.Machine

/-- A line or a piece of one. -/
abbrev Text := List Char

/-- The mnemonic of R48, suffix included (R58). -/
def mnemonicText : Instr → Text
  | .init => ['I', 'N', 'I', 'T']
  | .rdaxis _ => ['R', 'D', 'A', 'X', 'I', 'S']
  | .rdrangeDec => ['R', 'D', 'R', 'A', 'N', 'G', 'E', '.', 'D', 'E', 'C']
  | .rdrangeRaw => ['R', 'D', 'R', 'A', 'N', 'G', 'E', '.', 'R', 'A', 'W']
  | .rdaccelG => ['R', 'D', 'A', 'C', 'C', 'E', 'L', '.', 'G']
  | .rdaccelMs2 => ['R', 'D', 'A', 'C', 'C', 'E', 'L', '.', 'M', 'S', '2']
  | .unpack _ _ => ['U', 'N', 'P', 'A', 'C', 'K']
  | .decrange _ => ['D', 'E', 'C', 'R', 'A', 'N', 'G', 'E']
  | .scale _ => ['S', 'C', 'A', 'L', 'E']

/-- One hexadecimal digit. -/
def hexDigit (n : Nat) : Char := if n < 10 then Char.ofNat (48 + n) else Char.ofNat (55 + n)

/-- A byte as `0x` and two hexadecimal digits (R5). -/
def byteText (b : Byte) : Text := ['0', 'x', hexDigit (b.toNat / 16), hexDigit (b.toNat % 16)]

/-- The operands a line shows after its mnemonic; INIT shows the spelling of its device address,
which is not in the word (R58). -/
def operandTexts (address : Text) : Instr → List Text
  | .init => [address]
  | .rdaxis base => [byteText base]
  | .rdrangeDec => []
  | .rdrangeRaw => []
  | .rdaccelG => []
  | .rdaccelMs2 => []
  | .unpack low high => [byteText low, byteText high]
  | .decrange byte => [byteText byte]
  | .scale byte => [byteText byte]

/-- Operands "separated by a comma and a space" (R58). -/
def joinOperands : List Text → Text
  | [] => []
  | [t] => t
  | t :: u :: rest => t ++ [',', ' '] ++ joinOperands (u :: rest)

/-- "the mnemonic of rule R48, a space, then the operands" (R58). -/
def instrText (address : Text) (i : Instr) : Text :=
  match operandTexts address i with
  | [] => mnemonicText i
  | t :: rest => mnemonicText i ++ [' '] ++ joinOperands (t :: rest)

/-- The value of a digit, decimal or hexadecimal. -/
def digitValue (c : Char) : Option Nat :=
  if 48 ≤ c.toNat ∧ c.toNat ≤ 57 then some (c.toNat - 48)
  else if 65 ≤ c.toNat ∧ c.toNat ≤ 70 then some (c.toNat - 55)
  else if 97 ≤ c.toNat ∧ c.toNat ≤ 102 then some (c.toNat - 87)
  else none

/-- The number written by `digits` in a base, read on from the value `acc`. -/
def readDigits (base : Nat) : Nat → Text → Option Nat
  | acc, [] => some acc
  | acc, c :: rest =>
    match digitValue c with
    | none => none
    | some d => if d < base then readDigits base (acc * base + d) rest else none

/-- "A number with the prefix `0x` is hexadecimal; every other number is decimal" (R5). -/
def readNumber (t : Text) : Option Nat :=
  match t with
  | [] => none
  | ['0', 'x'] => none
  | '0' :: 'x' :: digits => readDigits 16 0 digits
  | digits => readDigits 10 0 digits

/-- A `u8` operand. -/
def readByte (t : Text) : Option Byte :=
  match readNumber t with
  | none => none
  | some n => if n < 256 then some (BitVec.ofNat 8 n) else none

/-- A line without its comment, which "starts with `;` and runs to the end of the line" (R58). -/
def withoutComment (t : Text) : Text := t.takeWhile (fun c => c != ';')

/-- A line without the spaces around it. -/
def trimText (t : Text) : Text :=
  ((t.dropWhile (fun c => c == ' ')).reverse.dropWhile (fun c => c == ' ')).reverse

/-- Split at each comma followed by a space. -/
def splitOperands : Text → List Text
  | [] => [[]]
  | ',' :: ' ' :: rest => [] :: splitOperands rest
  | c :: rest =>
    match splitOperands rest with
    | [] => [[c]]
    | t :: ts => (c :: t) :: ts

/-- The mnemonic of a line, and its operands after one space. -/
def splitLine (t : Text) : Text × List Text :=
  match t.dropWhile (fun c => c != ' ') with
  | [] => (t, [])
  | _ :: operands => (t.takeWhile (fun c => c != ' '), splitOperands operands)

/-- What a line that is not blank stands for: a command and, for INIT, its device address. -/
abbrev Assembled := Instr × Option DeviceAddress

/-- A line with one `u8` operand. -/
def oneByte (operands : List Text) (k : Byte → Instr) : Option Assembled :=
  match operands with
  | [t] => (readByte t).map fun v => (k v, none)
  | _ => none

/-- A line with no operand. -/
def noOperand (operands : List Text) (i : Instr) : Option Assembled :=
  match operands with
  | [] => some (i, none)
  | _ => none

/-- `UNPACK low, high` (R58). -/
def twoBytes (operands : List Text) (k : Byte → Byte → Instr) : Option Assembled :=
  match operands with
  | [t, u] =>
    match readByte t, readByte u with
    | some v, some w => some (k v w, none)
    | _, _ => none
  | _ => none

/-- `INIT` takes the device address "as its operand, written as a name or a number": `names` says
which address a spelling stands for, since the address is opaque (R58, R49). -/
def initOperand (names : List (Text × DeviceAddress)) (operands : List Text) : Option Assembled :=
  match operands with
  | [t] => (names.lookup t).map fun a => (.init, some a)
  | _ => none

/-- A mnemonic and its operands: the nine of R48 and the three pseudo-instructions of R59. -/
def assembleParts (names : List (Text × DeviceAddress)) (m : Text) (operands : List Text) :
    Option Assembled :=
  if m = mnemonicText .init then initOperand names operands
  else if m = mnemonicText (.rdaxis 0) then oneByte operands .rdaxis
  else if m = mnemonicText .rdrangeDec then noOperand operands .rdrangeDec
  else if m = mnemonicText .rdrangeRaw then noOperand operands .rdrangeRaw
  else if m = mnemonicText .rdaccelG then noOperand operands .rdaccelG
  else if m = mnemonicText .rdaccelMs2 then noOperand operands .rdaccelMs2
  else if m = mnemonicText (.unpack 0 0) then twoBytes operands .unpack
  else if m = mnemonicText (.decrange 0) then oneByte operands .decrange
  else if m = mnemonicText (.scale 0) then oneByte operands .scale
  else if m = ['R', 'D', 'X'] then noOperand operands .rdx
  else if m = ['R', 'D', 'Y'] then noOperand operands .rdy
  else if m = ['R', 'D', 'Z'] then noOperand operands .rdz
  else none

/-- What one line of a listing says. -/
inductive AsmLine where
  /-- nothing but spaces and a comment -/
  | blank
  /-- one command (R58: "One command per line") -/
  | command (a : Assembled)
  /-- not a line of R58's syntax -/
  | notSyntax
  deriving DecidableEq, Repr

/-- Read one line (R58). -/
def assembleLine (names : List (Text × DeviceAddress)) (line : Text) : AsmLine :=
  match trimText (withoutComment line) with
  | [] => .blank
  | c :: rest =>
    match assembleParts names (splitLine (c :: rest)).1 (splitLine (c :: rest)).2 with
    | some a => .command a
    | none => .notSyntax

/-- What the host offers for an assembled line; `unused` stands on `cmd_daddr` for a command that
ignores it (R49). -/
def offerOf (unused : DeviceAddress) (a : Assembled) : Offer := ⟨encode a.1, a.2.getD unused⟩

/-- A listing as the commands the host offers one after the other (R83: "a straight list of
commands"); `none` if a line is not of R58's syntax. -/
def assemble (names : List (Text × DeviceAddress)) (unused : DeviceAddress) :
    List Text → Option (List Offer)
  | [] => some []
  | line :: rest =>
    match assembleLine names line with
    | .notSyntax => none
    | .blank => assemble names unused rest
    | .command a => (assemble names unused rest).map fun os => offerOf unused a :: os

end Sys2Proof.Machine
end

