-- ==== Sys2Proof/Machine/ResponseWord.lean ====
section
/-! DEFINITION. The bit-level response word `RSP` (spec/30_encoding.md R51, R53, R54, R56). -/

namespace Sys2Proof.Machine

/-- `kind`, `RSP[194:192]` (R51). -/
def Payload.kind : Payload → BitVec 3
  | .unit => 0
  | .sample _ => 1
  | .raw _ => 2
  | .decoded _ => 3
  | .modifier _ => 4
  | .accel _ _ _ => 5

/-- The 8-bit two's-complement pattern of the range code (R54). -/
def rangePattern (r : RangeSetting) : Byte := BitVec.ofInt 8 (rangeCode r)

/-- `data`, `RSP[191:0]`, unused bits zero (R51). -/
def Payload.data : Payload → BitVec 192
  | .unit => 0
  | .sample s => s.setWidth 192
  | .raw b => b.setWidth 192
  | .decoded r => (rangePattern r).setWidth 192
  | .modifier m => m.setWidth 192
  | .accel x y z => z ++ y ++ x

/-- `RSP` for the n-th response (R51). When `status` is 1, `kind` and `data` hold no value: they are
free (assumption 12). -/
def Response.word (n : Nat) : Response → ResponseWord
  | .ok p => 0#1 ++ p.kind ++ p.data
  | .err _ => 1#1 ++ Config.errWordBits n

/-- `rsp_terr`, the error token beside the word (R51). -/
def Response.terr : Response → Option TErr
  | .ok _ => none
  | .err e => some e

end Sys2Proof.Machine
end

