-- ==== Sys2Proof/Safety.lean ====
section
/-! DEFINITION. The terms claims are stated in: the invariants of spec/10_state.md R22, the refused
cases of spec/60_exceptions.md R102, the transactions of spec/20_memory.md R38. -/

namespace Sys2Proof.Machine

/-- R22 (a) and (b): `IDLE` exactly when no command is latched, and then no holding register holds a
value. -/
abbrev State.IdleClean (s : State) : Prop :=
  (s.phase = .idle ↔ s.cmd = none) ∧
  (s.phase = .idle → s.lo = none ∧ s.s0 = none ∧ s.s1 = none ∧ s.s2 = none ∧ s.rb = none)

/-- The phases in which a read is outstanding (R22 c). -/
def Phase.reading : Phase → Bool
  | .idle => false
  | .i0 => false
  | _ => true

/-- R22 (c) and (d): reading phases only when constructed, the write of INIT only when not. -/
abbrev State.AddressFits (s : State) : Prop :=
  (s.phase.reading = true → s.daddr.isSome = true) ∧ (s.phase = .i0 → s.daddr = none)

/-- R22 (e): the holding registers a phase will read hold a value. -/
abbrev State.HeldWhereRead (s : State) : Prop :=
  (s.phase ∈ [Phase.a1, .c1, .c3, .c5] → s.lo.isSome = true) ∧
  (s.phase ∈ [Phase.c2, .c3, .c4, .c5, .c6] → s.s0.isSome = true) ∧
  (s.phase ∈ [Phase.c4, .c5, .c6] → s.s1.isSome = true) ∧
  (s.phase = .c6 → s.s2.isSome = true)

/-- The phases of a command (R13, R81). -/
def Command.phases : Command → List Phase
  | .init _ => [.i0]
  | .rdaxis _ => [.a0, .a1]
  | .rdrange _ => [.g0]
  | .rdaccel _ => [.c0, .c1, .c2, .c3, .c4, .c5, .c6]

/-- A latched command is legal: the base of RDAXIS is not 0xFF (R102 case 2). -/
def Command.legal : Command → Bool
  | .init _ => true
  | .rdaxis base => base != 0xFF
  | .rdrange _ => true
  | .rdaccel _ => true

/-- The sequencer is in a phase of the latched command, which is legal (R13, R81, R102). -/
abbrev State.PhaseFits (s : State) : Prop :=
  ∀ c ∈ s.cmd, s.phase ∈ c.phases ∧ c.legal = true

/-- "Invariants that hold in every reachable state" (R22), with the fit of phase and command. -/
abbrev State.Inv (s : State) : Prop :=
  s.IdleClean ∧ s.AddressFits ∧ s.HeldWhereRead ∧ s.PhaseFits

/-- What stands at the ports (R34, R46; assumptions 5 and 7): an answer stands at the bus-master port
only to the transaction outstanding, one at most, and the host has taken no more responses than were
delivered. -/
abbrev State.PortsFit (s : State) : Prop :=
  (s.reads ≠ [] → s.phase.reading = true) ∧ (s.writes ≠ [] → s.phase = .i0) ∧
  s.reads.length ≤ 1 ∧ s.writes.length ≤ 1 ∧ s.taken ≤ s.rsp.length

/-- A transaction is outstanding and the transport has not answered it (R25, R103). -/
def State.unanswered (s : State) : Bool :=
  match issued s with
  | some (.read _ _) => s.reads == []
  | some (.write _ _ _) => s.writes == []
  | none => false

/-- Replies given one by one to a command in progress, a row of the phase table after each. -/
def answerOneByOne : List ReadReply → State → Out
  | [], s => .next s
  | r :: rest, s =>
    match phaseStep { s with reads := [r] } with
    | .next t => answerOneByOne rest t
    | .fault f => .fault f
    | .refused f => .refused f

/-- A reply that is a byte. -/
def ReadReply.isByte : ReadReply → Bool
  | .byte _ => true
  | .fail _ => false

/-- "Constructed implies that one `BusWrite(a, 0x20, 0x1F)` has completed without error" (R11). -/
abbrev State.ConstructedByWrite (s : State) : Prop :=
  ∀ a ∈ s.daddr, Transaction.write a 0x20 0x1F .ack ∈ s.trace

/-- The refused cases of R102 that concern a command with a row: its refusal, or `none`. -/
def refusedCase (i : Instr) (s : State) : Option Refusal :=
  match i with
  | .init => if s.daddr.isSome then some .alreadyConstructed else none
  | .rdaxis base =>
    if base = 0xFF then some .offsetOutOfRange
    else if s.daddr.isSome then none else some .unconstructed
  | .rdrangeDec => if s.daddr.isSome then none else some .unconstructed
  | .rdrangeRaw => if s.daddr.isSome then none else some .unconstructed
  | .rdaccelG => if s.daddr.isSome then none else some .unconstructed
  | .rdaccelMs2 => if s.daddr.isSome then none else some .unconstructed
  | .unpack _ _ => none
  | .decrange _ => none
  | .scale _ => none

/-- The offsets a command reads, in order (R38). -/
def readOffsets : Instr → List Byte
  | .init => []
  | .rdaxis base => [base, base + 1]
  | .rdrangeDec => [0x24]
  | .rdrangeRaw => [0x24]
  | .rdaccelG => [0x28, 0x29, 0x2A, 0x2B, 0x2C, 0x2D, 0x24]
  | .rdaccelMs2 => [0x28, 0x29, 0x2A, 0x2B, 0x2C, 0x2D, 0x24]
  | .unpack _ _ => []
  | .decrange _ => []
  | .scale _ => []

/-- The phases in which those reads are outstanding (R81). -/
def readPhases : Instr → List Phase
  | .init => []
  | .rdaxis _ => [.a0, .a1]
  | .rdrangeDec => [.g0]
  | .rdrangeRaw => [.g0]
  | .rdaccelG => [.c0, .c1, .c2, .c3, .c4, .c5, .c6]
  | .rdaccelMs2 => [.c0, .c1, .c2, .c3, .c4, .c5, .c6]
  | .unpack _ _ => []
  | .decrange _ => []
  | .scale _ => []

/-- Successful reads of successive offsets, as the bus trace holds them. -/
def readsDone (d : DeviceAddress) (offsets values : List Byte) : List Transaction :=
  List.zipWith (fun r v => .read d r (.byte v)) offsets values

/-- The four fields of a command word (R47). -/
def wordFields (w : CommandWord) : BitVec 4 × BitVec 4 × Byte × Byte :=
  (fieldOp w, fieldMod w, fieldB w, fieldA w)

/-- The pure commands (R81, last row). -/
def isPure : Instr → Bool
  | .unpack _ _ => true
  | .decrange _ => true
  | .scale _ => true
  | .init => false
  | .rdaxis _ => false
  | .rdrangeDec => false
  | .rdrangeRaw => false
  | .rdaccelG => false
  | .rdaccelMs2 => false

/-- The words that R52 lists as reserved. -/
def reservedByR52 (w : CommandWord) : Prop :=
  fieldOp w ∈ [0x0, 0x5, 0x6, 0x7, 0xB, 0xC, 0xD, 0xE, 0xF] ∨
  (fieldOp w ∈ [0x1, 0x2, 0x8, 0x9, 0xA] ∧ fieldMod w ≠ 0x0) ∨
  (fieldOp w ∈ [0x3, 0x4] ∧ fieldMod w ∉ [0x0, 0x1]) ∨
  (fieldOp w ≠ 0x8 ∧ fieldB w ≠ 0x00) ∨
  (fieldOp w ∈ [0x1, 0x3, 0x4] ∧ fieldA w ≠ 0x00)

/-- The payload kind of a command (R50), as the `kind` code of R51. -/
def payloadKind : Instr → BitVec 3
  | .init => 0
  | .rdaxis _ => 1
  | .rdrangeDec => 3
  | .rdrangeRaw => 2
  | .rdaccelG => 5
  | .rdaccelMs2 => 5
  | .unpack _ _ => 1
  | .decrange _ => 3
  | .scale _ => 4

/-- Every write on the bus is the configuration write of INIT (R27). -/
def Transaction.configWriteOnly : Transaction → Bool
  | .read _ _ _ => true
  | .write _ r v _ => r == 0x20 && v == 0x1F

/-- The token of a failed transaction (R25, R96). -/
def Transaction.failure : Transaction → Option TErr
  | .read _ _ (.byte _) => none
  | .read _ _ (.fail e) => some e
  | .write _ _ _ .ack => none
  | .write _ _ _ (.fail e) => some e

/-- The device address a transaction goes to (R25). -/
def Transaction.target : Transaction → DeviceAddress
  | .read d _ _ => d
  | .write d _ _ _ => d

/-- The spelling of an operand that a line can carry: not empty, and none of the characters that end
or separate operands (R58). -/
def plainOperand (t : Text) : Bool := t != [] && t.all fun c => c != ' ' && c != ',' && c != ';'

end Sys2Proof.Machine
end

