-- ==== Sys2Proof/Certificates/Slice0/Obligations.lean ====
section
/-! DEFINITION. The statements for the provers. Each docstring names the rules of spec/ it formalises.
A statement about a free value or about the bus replies holds for every value of it. -/

open Sys2Proof Sys2Proof.Machine

/-! ## Encoding -/

/-- R48, R58, R59: words written out from the encodings of the spec decode to their commands. -/
def Obligations.TabulatedWordsDecode : Prop :=
  decode 0x100000 = .ok .init ∧ decode 0x200028 = .ok .rdx ∧ decode 0x20002A = .ok .rdy ∧
  decode 0x20002C = .ok .rdz ∧ decode 0x300000 = .ok .rdrangeDec ∧
  decode 0x310000 = .ok .rdrangeRaw ∧ decode 0x400000 = .ok .rdaccelG ∧
  decode 0x410000 = .ok .rdaccelMs2 ∧ decode 0x808000 = .ok (.unpack 0x00 0x80) ∧
  decode 0x900018 = .ok (.decrange 0x18) ∧ decode 0xA000FF = .ok (.scale 0xFF)

/-- Decode and encode agree, for every command with every operand value. -/
def Obligations.DecodeEncodeAgree : Prop := ∀ i : Instr, decode (encode i) = .ok i

/-- A word that decodes is the word of its command: no bit of it is dropped. -/
def Obligations.EncodeDecodeAgree : Prop :=
  ∀ (w : CommandWord) (i : Instr), decode w = .ok i → encode i = w

/-- R48, R52: a word is a command exactly when it selects a row of the table, and then the row is
that of the command. -/
def Obligations.DecodesExactlyTheRows : Prop :=
  ∀ w : CommandWord,
    ((∃ i, decode w = .ok i) ↔ ∃ r ∈ commandTable, r.selects w = true) ∧
    ∀ i, decode w = .ok i → i.row ∈ commandTable ∧ i.row.selects w = true

/-- R48: "The rows are disjoint." -/
def Obligations.RowsDisjoint : Prop :=
  ∀ w : CommandWord, ∀ r ∈ commandTable, ∀ r' ∈ commandTable,
    r.selects w = true → r'.selects w = true → r = r'

/-- R58: a line written from a command reads back as that command, with the address its operand
stands for when it is INIT. -/
def Obligations.AssemblerReadsBack : Prop :=
  ∀ (i : Instr) (names : List (Text × DeviceAddress)) (operand : Text) (a : DeviceAddress),
    plainOperand operand = true → names.lookup operand = some a →
    assembleLine names (instrText operand i) =
      .command (i, if i = .init then some a else none)

/-- R59: the three pseudo-instructions, their words and what they read; no other mnemonic than theirs
and the nine of R48 is read. -/
def Obligations.PseudoInstructionsExpand : Prop :=
  (∀ names : List (Text × DeviceAddress),
    assembleLine names ['R', 'D', 'X'] = .command (.rdaxis 0x28, none) ∧
    assembleLine names ['R', 'D', 'Y'] = .command (.rdaxis 0x2A, none) ∧
    assembleLine names ['R', 'D', 'Z'] = .command (.rdaxis 0x2C, none)) ∧
  encode (.rdaxis 0x28) = 0x200028 ∧ encode (.rdaxis 0x2A) = 0x20002A ∧
  encode (.rdaxis 0x2C) = 0x20002C ∧
  readOffsets (.rdaxis 0x28) = [0x28, 0x29] ∧ readOffsets (.rdaxis 0x2A) = [0x2A, 0x2B] ∧
  readOffsets (.rdaxis 0x2C) = [0x2C, 0x2D] ∧
  (∀ (names : List (Text × DeviceAddress)) (m : Text) (operands : List Text) (a : Assembled),
    assembleParts names m operands = some a →
    m = mnemonicText a.1 ∨
      (m, a.1) ∈ [(['R', 'D', 'X'], Instr.rdaxis 0x28), (['R', 'D', 'Y'], .rdaxis 0x2A),
        (['R', 'D', 'Z'], .rdaxis 0x2C)])

/-! ## The step -/

/-- R46, R49: when it is the sequencer's turn, in `IDLE` with `rst` low, a step runs the command whose
word stands at the command port; the offer has left the port and its address stands on `cmd_daddr`.
The model's choice: how turns are taken (`pass`, assumption 25), that the offer leaves the port and its
address stays in `cmdDaddr` (assumption 7), and that no answer stands at the bus-master port at that
moment, so that a bus command goes to its first phase (assumption 9). -/
def Obligations.StepRunsDecodedCommand : Prop :=
  ∀ (s : State) (o : Offer) (i : Instr),
    s.turn = .sequencer → s.rst = false → s.phase = .idle → s.port = some o →
    decode o.word = .ok i →
    step s = exec i { s.pass with port := none, cmdDaddr := o.daddr, reads := [], writes := [] }

/-- R8: each agent has its own step. The host's changes only what it offers, `rst`, and which responses
it has taken, and it holds an offer stable; the bus answers only the transaction outstanding, once;
neither touches the block. What each does is the parameter of the run, and whose turn comes next is
free (assumptions 5, 7, 25). An answer given and not yet taken is at the port and not in the trace
(assumption 17). -/
def Obligations.AgentsTakeTurns : Prop :=
  (∀ s : State, s.turn = .host →
    step s = .next (hostAct (Config.hostMove s.moves) s.pass)) ∧
  (∀ s : State, s.turn = .bus →
    step s = .next (busAct (Config.readAnswer s.moves) (Config.writeAnswer s.moves) s.pass)) ∧
  (∀ (m : HostMove) (s : State), ∃ p b k,
    hostAct m s = { s with port := p, rst := b, taken := k } ∧
    (∀ o, p = some o ↔ s.port = some o ∨ (s.port = none ∧ m = .offer o)) ∧
    (b = true ↔ s.rst = true ∨ m = .assertRst) ∧
    (m = .take → s.taken < s.rsp.length → k = s.taken + 1) ∧ (m ≠ .take → k = s.taken)) ∧
  (∀ (r : Option ReadReply) (w : Option WriteReply) (s : State),
    (∀ d q, issued s = some (.read d q) → s.reads = [] →
      busAct r w s = { s with reads := r.toList }) ∧
    (∀ d q v, issued s = some (.write d q v) → s.writes = [] →
      busAct r w s = { s with writes := w.toList }) ∧
    (s.unanswered = false → busAct r w s = s)) ∧
  (∀ s t : State, step s = .next t →
    t.turn = Config.schedule s.moves ∧ t.moves = s.moves + 1 ∧
    (s.turn = .sequencer → t.taken = s.taken ∧ (t.port = s.port ∨ t.port = none)))

/-- R8, R81: one step issues or completes one phase at most. A step adds at most one transaction to the
bus trace; accepting a bus command that is not refused goes to its first phase and no further. How much
one step does is assumption 9. -/
def Obligations.OnePhasePerStep : Prop :=
  (∀ s t : State, step s = .next t → t.trace = s.trace ∨ ∃ x, t.trace = s.trace ++ [x]) ∧
  (∀ (s : State) (o : Offer) (i : Instr) (c : Command),
    s.turn = .sequencer → s.rst = false → s.phase = .idle → s.port = some o →
    decode o.word = .ok i → latchedCommand o.daddr i = some c → refusedCase i s = none →
    step s = .next { s.pass with
      port := none, cmdDaddr := o.daddr, reads := [], writes := []
      cmd := some c, phase := c.firstPhase })

/-- R52: the words that select no row are those the rule lists; each is refused when it is offered;
`RDAXIS` with `a = 0xFF` selects a row and is refused by value, constructed or not; on a constructed block,
where no other case of R102 holds, as `offsetOutOfRange`. -/
def Obligations.ReservedWordsRefused : Prop :=
  (∀ w : CommandWord, (∀ r ∈ commandTable, r.selects w = false) ↔ reservedByR52 w) ∧
  (∀ (s : State) (o : Offer),
    s.turn = .sequencer → s.rst = false → s.phase = .idle → s.port = some o →
    (∀ r ∈ commandTable, r.selects o.word = false) →
    ∃ e, step s = .refused (.reservedWord e)) ∧
  (∀ (s : State) (o : Offer),
    s.turn = .sequencer → s.rst = false → s.phase = .idle → s.port = some o →
    o.word = 0x2000FF →
    (∃ r ∈ commandTable, r.selects o.word = true) ∧ (∃ r, step s = .refused r) ∧
    ∀ d, s.daddr = some d → step s = .refused .offsetOutOfRange)

/-- R13, R46, R81: while a command is in progress a step of the sequencer is one row of the phase table;
what the host offers stays at the port. In every step, whoever's turn it is, the latched command is
unchanged or has ended: the host has no step that touches it. -/
def Obligations.BusyBlockAcceptsNothing : Prop :=
  (∀ s : State, s.turn = .sequencer → s.rst = false → s.phase ≠ .idle →
    step s = phaseStep s.pass) ∧
  ∀ s t : State, s.phase ≠ .idle → step s = .next t →
    (∀ o, s.port = some o → t.port = some o) ∧ t.cmdDaddr = s.cmdDaddr ∧
    (t.cmd = s.cmd ∨ t.cmd = none) ∧
    (s.turn ≠ .sequencer → t.cmd = s.cmd ∧ t.phase = s.phase ∧ t.daddr = s.daddr ∧ t.lo = s.lo ∧
      t.s0 = s.s0 ∧ t.s1 = s.s1 ∧ t.s2 = s.s2 ∧ t.rb = s.rb)

/-- R21, R22: nothing is in progress, nothing is latched and nothing is held after reset. -/
def Obligations.ResetStateAsTabulated : Prop :=
  State.reset.daddr = none ∧ State.reset.phase = .idle ∧ State.reset.cmd = none ∧
  State.reset.lo = none ∧ State.reset.s0 = none ∧ State.reset.s1 = none ∧
  State.reset.s2 = none ∧ State.reset.rb = none

/-- R115: `rst` in `IDLE` puts the block into the reset state and issues no transaction. It does so also
where an offer stands at the port, and in the sequencer's turn: that rank is assumption 8. -/
def Obligations.RstInIdleResets : Prop :=
  ∀ s : State, s.turn = .sequencer → s.rst = true → s.phase = .idle →
    ∃ t, step s = .next t ∧
      t.daddr = none ∧ t.phase = .idle ∧ t.cmd = none ∧ t.lo = none ∧ t.s0 = none ∧ t.s1 = none ∧
      t.s2 = none ∧ t.rb = none ∧ t.trace = s.trace ∧ t.reads = s.reads ∧ t.writes = s.writes

/-- What stands at the ports is untouched by `rst`, and the assertion is over after one step of the
sequencer. The model's choice (assumptions 8 and 17): the spec says nothing of the ports. -/
def Obligations.RstLeavesPorts : Prop :=
  ∀ s t : State, s.turn = .sequencer → s.rst = true → step s = .next t →
    t.port = s.port ∧ t.cmdDaddr = s.cmdDaddr ∧ t.rsp = s.rsp ∧ t.taken = s.taken ∧ t.rst = false

/-- R102 case 5, R116: `rst` during a command is refused. -/
def Obligations.RstWhileBusyRefused : Prop :=
  ∀ s : State, s.turn = .sequencer → s.rst = true → s.phase ≠ .idle →
    step s = .refused .resetWhileBusy

/-! ## The datapath -/

/-- R60: the integer that `unpack16` delivers, on every byte pair. -/
def Obligations.UnpackSignCorrection : Prop :=
  ∀ low high : Byte,
    (unpack16 low high).toInt =
      if high.toNat * 256 + low.toNat ≥ 32768 then
        ((high.toNat * 256 + low.toNat : Nat) : Int) - 65536
      else ((high.toNat * 256 + low.toNat : Nat) : Int)

/-- R61: the unpacker is wiring, its sign is bit 7 of `high`, and it is a bijection with the inverse
the rule gives. -/
def Obligations.UnpackIsWiring : Prop :=
  (∀ low high : Byte, unpack16 low high = high ++ low) ∧
  (∀ low high : Byte, (unpack16 low high).toInt < 0 ↔ high.toNat ≥ 0x80) ∧
  (∀ low high : Byte,
    (low.toNat : Int) = (unpack16 low high).toInt % 256 ∧
    (high.toNat : Int) = (unpack16 low high).toInt % 65536 / 256) ∧
  (∀ x : Sample16, ∃ low high : Byte, unpack16 low high = x)

/-- R62: the five known bytes, and every other byte `Unknown`. -/
def Obligations.RangeDecodeTable : Prop :=
  ∀ b : Byte,
    rangeCode (rangeDecode b) =
      (if b = 0x00 then 2 else if b = 0x08 then 4 else if b = 0x10 then 6
        else if b = 0x18 then 8 else if b = 0x20 then 16 else -1) ∧
    (rangeDecode b = .unknown ↔ b ∉ [0x00, 0x08, 0x10, 0x18, 0x20])

/-- R56, R64: the modifiers as binary64 patterns, with the ±2g modifier for every other byte; and
`G0`. -/
def Obligations.ScaleModifierTable : Prop :=
  (∀ b : Byte,
    scaleModifier b =
      if b = 0x00 then 0x40D0000000000000
      else if b = 0x08 then 0x40C0000000000000
      else if b = 0x10 then 0x40B55555551D68C7
      else if b = 0x18 then 0x40B0000000000000
      else if b = 0x20 then 0x40A0000000000000
      else 0x40D0000000000000) ∧
  gravity = 0x40239D013A92A305

/-- R65: `of_int` is exact on every sample, and `of_int(0)` is +0. -/
def Obligations.OfIntExact : Prop :=
  (∀ s : Sample16, fmtFinite (ofInt16 s) = true ∧ fmtValue (ofInt16 s) = (s.toInt : ℚ)) ∧
  ofInt16 0 = 0

/-- R65, decision D8: `fdiv` is correctly rounded. On finite operands with a non-zero divisor and a
finite result, no finite number is nearer the exact quotient, and a number as near with another
value shows that the result's last bit is 0. -/
def Obligations.FdivCorrectlyRounded : Prop :=
  ∀ x y : Fmt, fmtFinite x = true → fmtFinite y = true → fmtUnits y ≠ 0 →
    fmtFinite (fdiv x y) = true →
    ∀ z : Fmt, fmtFinite z = true →
      |fmtValue (fdiv x y) - fmtValue x / fmtValue y| ≤ |fmtValue z - fmtValue x / fmtValue y| ∧
      (|fmtValue (fdiv x y) - fmtValue x / fmtValue y| = |fmtValue z - fmtValue x / fmtValue y| →
        fmtValue z ≠ fmtValue (fdiv x y) → fmtFrac (fdiv x y) % 2 = 0)

/-- R65, decision D8: `fmul` is correctly rounded, in the same sense. -/
def Obligations.FmulCorrectlyRounded : Prop :=
  ∀ x y : Fmt, fmtFinite x = true → fmtFinite y = true → fmtFinite (fmul x y) = true →
    ∀ z : Fmt, fmtFinite z = true →
      |fmtValue (fmul x y) - fmtValue x * fmtValue y| ≤ |fmtValue z - fmtValue x * fmtValue y| ∧
      (|fmtValue (fmul x y) - fmtValue x * fmtValue y| = |fmtValue z - fmtValue x * fmtValue y| →
        fmtValue z ≠ fmtValue (fmul x y) → fmtFrac (fmul x y) % 2 = 0)

/-- R72 (c): division by the four power-of-two modifiers, and by the fallback, is exact. -/
def Obligations.ToGExactOffSixG : Prop :=
  ∀ (s : Sample16) (b : Byte), b ≠ 0x10 →
    fmtValue (toG s b) =
      (s.toInt : ℚ) / 2 ^ (if b = 0x08 then 13 else if b = 0x18 then 12
        else if b = 0x20 then 11 else 14)

/-- R72 (a), (d), (e), (f): every g-unit result is finite and not subnormal, its magnitude is at most
16 and, for a non-zero sample, at least 2^-14; the zero sample gives +0; the sign is the sample's. -/
def Obligations.ToGRangeAndSign : Prop :=
  ∀ (s : Sample16) (b : Byte),
    fmtFinite (toG s b) = true ∧ fmtSubnormal (toG s b) = false ∧
    |fmtValue (toG s b)| ≤ 16 ∧ (s ≠ 0 → 1 / 2 ^ 14 ≤ |fmtValue (toG s b)|) ∧
    (s = 0 → toG s b = 0) ∧ fmtSign (toG s b) = decide (s.toInt < 0)

/-- spec/40 section 5, R72 (a), (d), (e), (f) (marked derived there) for m/s²: finite, not subnormal,
at most 16 times `G0` in magnitude, +0 for the zero sample, the sign that of the sample. -/
def Obligations.ToMs2RangeAndSign : Prop :=
  ∀ (s : Sample16) (b : Byte),
    fmtFinite (toMs2 s b) = true ∧ fmtSubnormal (toMs2 s b) = false ∧
    |fmtValue (toMs2 s b)| ≤ 16 * fmtValue gravity ∧
    (s = 0 → toMs2 s b = 0) ∧ fmtSign (toMs2 s b) = decide (s.toInt < 0)

/-- Negating a sample negates both results: only the sign bit changes (spec/95 section 2.3). -/
def Obligations.ConversionIsOdd : Prop :=
  ∀ (s : Sample16) (b : Byte), s ≠ 0 → s ≠ 0x8000 →
    toG (-s) b = toG s b ^^^ 0x8000000000000000 ∧
    toMs2 (-s) b = toMs2 s b ^^^ 0x8000000000000000

/-- R64, R66, R67, R73: the source's worked sample, in both units. -/
def Obligations.SourceEndToEndSample : Prop :=
  accel 0x4000 0xC000 0x0000 0x00 .g =
    .accel 0x3FF0000000000000 0xBFF0000000000000 0x0000000000000000 ∧
  accel 0x4000 0xC000 0x0000 0x00 .ms2 =
    .accel 0x40239D013A92A305 0xC0239D013A92A305 0x0000000000000000

/-! ## The pure commands -/

/-- R68: the encoding of UNPACK, and that it responds with the sample of its two immediates, in every
state in `IDLE`, constructed or not; nothing else changes. It is the result RDAXIS gives when the
bus returns `low` then `high`. -/
def Obligations.UnpackCommandResponds : Prop :=
  ∀ low high : Byte,
    wordFields (encode (.unpack low high)) = (0x8, 0x0, high, low) ∧
    ∃ x : Sample16,
      x.toInt =
        (if high.toNat * 256 + low.toNat ≥ 32768 then
          ((high.toNat * 256 + low.toNat : Nat) : Int) - 65536
        else ((high.toNat * 256 + low.toNat : Nat) : Int)) ∧
      (∀ s : State, s.phase = .idle →
        exec (.unpack low high) s = .next { s with rsp := s.rsp ++ [.ok (.sample x)] }) ∧
      (∀ (s : State) (base : Byte) (d : DeviceAddress) (rest : List ReadReply),
        s.phase = .idle → s.daddr = some d → base ≠ 0xFF →
        s.reads = .byte low :: .byte high :: rest →
        ∃ t, exec (.rdaxis base) s = .next t ∧ t.rsp = s.rsp ++ [.ok (.sample x)])

/-- R69: the encoding of DECRANGE, and that it responds with the range decode of its immediate;
nothing else changes. It is the result RDRANGE.DEC gives when the bus returns that byte. -/
def Obligations.DecrangeCommandResponds : Prop :=
  ∀ byte : Byte,
    wordFields (encode (.decrange byte)) = (0x9, 0x0, 0x00, byte) ∧
    ∃ r : RangeSetting,
      rangeCode r =
        (if byte = 0x00 then 2 else if byte = 0x08 then 4 else if byte = 0x10 then 6
          else if byte = 0x18 then 8 else if byte = 0x20 then 16 else -1) ∧
      (∀ s : State, s.phase = .idle →
        exec (.decrange byte) s = .next { s with rsp := s.rsp ++ [.ok (.decoded r)] }) ∧
      (∀ (s : State) (d : DeviceAddress) (rest : List ReadReply),
        s.phase = .idle → s.daddr = some d → s.reads = .byte byte :: rest →
        ∃ t, exec .rdrangeDec s = .next t ∧ t.rsp = s.rsp ++ [.ok (.decoded r)])

/-- R70: the encoding of SCALE, and that it responds with the scale modifier of its immediate, an
unknown byte included; nothing else changes. -/
def Obligations.ScaleCommandResponds : Prop :=
  (∀ byte : Byte,
    wordFields (encode (.scale byte)) = (0xA, 0x0, 0x00, byte) ∧
    ∀ s : State, s.phase = .idle →
      exec (.scale byte) s =
        .next { s with rsp := s.rsp ++ [.ok (.modifier (scaleModifier byte))] }) ∧
  scaleModifier 0x10 = 0x40B55555551D68C7 ∧
  ∀ byte ∉ [(0x08 : Byte), 0x10, 0x18, 0x20], scaleModifier byte = 0x40D0000000000000

/-! ## The bus commands -/

/-- R75: INIT. Its encoding; refused on a constructed block; one write of 0x1F to 0x20 of the address
on `cmd_daddr`; on success the address is held and `Ok(Unit)` delivered; on failure the block stays
unconstructed, `Err(e)` is delivered and INIT is accepted again. -/
def Obligations.InitConstructs : Prop :=
  wordFields (encode .init) = (0x1, 0x0, 0x00, 0x00) ∧
  (∀ (s : State) (d : DeviceAddress), s.phase = .idle → s.daddr = some d →
    exec .init s = .refused .alreadyConstructed) ∧
  (∀ (s : State) (rest : List WriteReply),
    s.phase = .idle → s.daddr = none → s.writes = .ack :: rest →
    exec .init s =
      .next { s.quiet with
        daddr := some s.cmdDaddr, writes := rest
        trace := s.trace ++ [.write s.cmdDaddr 0x20 0x1F .ack]
        rsp := s.rsp ++ [.ok .unit] }) ∧
  (∀ (s : State) (e : TErr) (rest : List WriteReply),
    s.phase = .idle → s.daddr = none → s.writes = .fail e :: rest →
    ∃ t, exec .init s = .next t ∧
      t = { s.quiet with
        writes := rest, trace := s.trace ++ [.write s.cmdDaddr 0x20 0x1F (.fail e)]
        rsp := s.rsp ++ [.err e] } ∧
      t.daddr = none ∧ t.phase = .idle ∧ refusedCase .init t = none)

/-- R76: RDAXIS. Its encoding; refused when unconstructed or for `base = 0xFF`; it reads the low byte
from `base`, then the high byte from `base + 1`, and responds with their signed 16-bit combination;
a failure of the first read or of the second ends it with `Err(e)` and no sample. -/
def Obligations.RdaxisResponds : Prop :=
  ∀ base : Byte,
    wordFields (encode (.rdaxis base)) = (0x2, 0x0, 0x00, base) ∧
    (∀ s : State, s.phase = .idle → (s.daddr = none ∨ base = 0xFF) →
      ∃ r, exec (.rdaxis base) s = .refused r) ∧
    (base ≠ 0xFF → ∃ base1 : Byte, base1.toNat = base.toNat + 1 ∧
      (∀ (s : State) (d : DeviceAddress) (low high : Byte) (rest : List ReadReply),
        s.phase = .idle → s.daddr = some d → s.reads = .byte low :: .byte high :: rest →
        ∃ x : Sample16,
          x.toInt =
            (if high.toNat * 256 + low.toNat ≥ 32768 then
          ((high.toNat * 256 + low.toNat : Nat) : Int) - 65536
        else ((high.toNat * 256 + low.toNat : Nat) : Int)) ∧
          exec (.rdaxis base) s =
            .next { s.quiet with
              reads := rest
              trace := s.trace ++ [.read d base (.byte low), .read d base1 (.byte high)]
              rsp := s.rsp ++ [.ok (.sample x)] }) ∧
      (∀ (s : State) (d : DeviceAddress) (e : TErr) (rest : List ReadReply),
        s.phase = .idle → s.daddr = some d → s.reads = .fail e :: rest →
        exec (.rdaxis base) s =
          .next { s.quiet with
            reads := rest, trace := s.trace ++ [.read d base (.fail e)]
            rsp := s.rsp ++ [.err e] }) ∧
      (∀ (s : State) (d : DeviceAddress) (low : Byte) (e : TErr) (rest : List ReadReply),
        s.phase = .idle → s.daddr = some d → s.reads = .byte low :: .fail e :: rest →
        exec (.rdaxis base) s =
          .next { s.quiet with
            reads := rest
            trace := s.trace ++ [.read d base (.byte low), .read d base1 (.fail e)]
            rsp := s.rsp ++ [.err e] }))

/-- R77: RDRANGE.DEC responds with the decoded range. Its encoding; refused when unconstructed; one read
of 0x24; the payload whatever the byte is; a failed read ends it with `Err(e)`. -/
def Obligations.RdrangeDecResponds : Prop :=
  wordFields (encode .rdrangeDec) = (0x3, 0x0, 0x00, 0x00) ∧
  (∀ s : State, s.phase = .idle → s.daddr = none →
    exec .rdrangeDec s = .refused .unconstructed) ∧
  (∀ (s : State) (b : Byte) (d : DeviceAddress) (rest : List ReadReply),
    s.phase = .idle → s.daddr = some d → s.reads = .byte b :: rest →
    exec .rdrangeDec s =
      .next { s.quiet with
        reads := rest, trace := s.trace ++ [.read d 0x24 (.byte b)]
        rsp := s.rsp ++ [.ok (.decoded (rangeDecode b))] }) ∧
  (∀ (s : State) (e : TErr) (d : DeviceAddress) (rest : List ReadReply),
    s.phase = .idle → s.daddr = some d → s.reads = .fail e :: rest →
    exec .rdrangeDec s =
      .next { s.quiet with
        reads := rest, trace := s.trace ++ [.read d 0x24 (.fail e)]
        rsp := s.rsp ++ [.err e] })

/-- R78: RDRANGE.RAW responds with the byte unmodified. Its encoding; refused when unconstructed; one read
of 0x24; the payload whatever the byte is; a failed read ends it with `Err(e)`. -/
def Obligations.RdrangeRawResponds : Prop :=
  wordFields (encode .rdrangeRaw) = (0x3, 0x1, 0x00, 0x00) ∧
  (∀ s : State, s.phase = .idle → s.daddr = none →
    exec .rdrangeRaw s = .refused .unconstructed) ∧
  (∀ (s : State) (b : Byte) (d : DeviceAddress) (rest : List ReadReply),
    s.phase = .idle → s.daddr = some d → s.reads = .byte b :: rest →
    exec .rdrangeRaw s =
      .next { s.quiet with
        reads := rest, trace := s.trace ++ [.read d 0x24 (.byte b)]
        rsp := s.rsp ++ [.ok (.raw b)] }) ∧
  (∀ (s : State) (e : TErr) (d : DeviceAddress) (rest : List ReadReply),
    s.phase = .idle → s.daddr = some d → s.reads = .fail e :: rest →
    exec .rdrangeRaw s =
      .next { s.quiet with
        reads := rest, trace := s.trace ++ [.read d 0x24 (.fail e)]
        rsp := s.rsp ++ [.err e] })

/-- R79: RDACCEL.G. Its encoding; refused when unconstructed; the seven reads in order; the three
samples, each divided by the modifier of the seventh byte; the first failing read ends it with
`Err(e)`, no component delivered and no later read issued. -/
def Obligations.RdaccelGResponds : Prop :=
  wordFields (encode .rdaccelG) = (0x4, 0x0, 0x00, 0x00) ∧
  (∀ s : State, s.phase = .idle → s.daddr = none →
    exec .rdaccelG s = .refused .unconstructed) ∧
  (∀ (s : State) (d : DeviceAddress) (xl xh yl yh zl zh b : Byte) (rest : List ReadReply),
    s.phase = .idle → s.daddr = some d →
    s.reads = [xl, xh, yl, yh, zl, zh, b].map .byte ++ rest →
    exec .rdaccelG s =
      .next { s.quiet with
        reads := rest
        trace := s.trace ++
          readsDone d [0x28, 0x29, 0x2A, 0x2B, 0x2C, 0x2D, 0x24] [xl, xh, yl, yh, zl, zh, b]
        rsp := s.rsp ++ [.ok (.accel
          (fdiv (ofInt16 (xh ++ xl)) (scaleModifier b))
          (fdiv (ofInt16 (yh ++ yl)) (scaleModifier b))
          (fdiv (ofInt16 (zh ++ zl)) (scaleModifier b)))] }) ∧
  (∀ (s : State) (d : DeviceAddress) (pre : List Byte) (r : Byte) (e : TErr)
    (rest : List ReadReply),
    s.phase = .idle → s.daddr = some d →
    ([0x28, 0x29, 0x2A, 0x2B, 0x2C, 0x2D, 0x24] : List Byte)[pre.length]? = some r →
    s.reads = pre.map .byte ++ .fail e :: rest →
    exec .rdaccelG s =
      .next { s.quiet with
        reads := rest
        trace := s.trace ++ readsDone d [0x28, 0x29, 0x2A, 0x2B, 0x2C, 0x2D, 0x24] pre ++
          [.read d r (.fail e)]
        rsp := s.rsp ++ [.err e] })

/-- R80: RDACCEL.MS2. Its encoding; its precondition, reads, errors and end state are those of
RDACCEL.G; each component of its result is that of RDACCEL.G multiplied by 9.80665. -/
def Obligations.RdaccelMs2Responds : Prop :=
  wordFields (encode .rdaccelMs2) = (0x4, 0x1, 0x00, 0x00) ∧
  (∀ s : State, s.phase = .idle → s.daddr = none →
    exec .rdaccelMs2 s = .refused .unconstructed) ∧
  (∀ (s : State) (d : DeviceAddress) (xl xh yl yh zl zh b : Byte) (rest : List ReadReply),
    s.phase = .idle → s.daddr = some d →
    s.reads = [xl, xh, yl, yh, zl, zh, b].map .byte ++ rest →
    ∃ (t : State) (x y z : Fmt),
      t = { s.quiet with
        reads := rest
        trace := s.trace ++
          readsDone d [0x28, 0x29, 0x2A, 0x2B, 0x2C, 0x2D, 0x24] [xl, xh, yl, yh, zl, zh, b] } ∧
      exec .rdaccelG s = .next { t with rsp := s.rsp ++ [.ok (.accel x y z)] } ∧
      exec .rdaccelMs2 s =
        .next { t with
          rsp := s.rsp ++ [.ok (.accel (fmul x gravity) (fmul y gravity) (fmul z gravity))] }) ∧
  (∀ (s : State) (d : DeviceAddress) (pre : List Byte) (e : TErr) (rest : List ReadReply),
    s.phase = .idle → s.daddr = some d → pre.length < 7 →
    s.reads = pre.map .byte ++ .fail e :: rest →
    ∃ t, exec .rdaccelMs2 s = .next t ∧ exec .rdaccelG s = .next t ∧
      t.rsp = s.rsp ++ [.err e])

/-- R97, R98: a transaction that fails ends the command: no further transaction, no payload, working
state cleared, `daddr` kept, the token delivered unmodified, the transactions already done kept in
the trace. For a command run from `IDLE` whose read fails after `pre.length` successful ones; for the
write of INIT; and for a command in progress, in whatever phase, where the failed transaction is the last
in the trace after that step (ErrorOnlyFromFailedTransaction says that it enters the trace in it). -/
def Obligations.FailedTransactionEndsCommand : Prop :=
  (∀ (i : Instr) (s : State) (d : DeviceAddress) (pre : List Byte) (r : Byte) (e : TErr)
    (rest : List ReadReply),
    s.phase = .idle → s.daddr = some d → i.wellFormed = true →
    (readOffsets i)[pre.length]? = some r → s.reads = pre.map .byte ++ .fail e :: rest →
    exec i s =
      .next { s.quiet with
        reads := rest
        trace := s.trace ++ readsDone d (readOffsets i) pre ++ [.read d r (.fail e)]
        rsp := s.rsp ++ [.err e] }) ∧
  (∀ (s : State) (e : TErr) (rest : List WriteReply),
    s.phase = .idle → s.daddr = none → s.writes = .fail e :: rest →
    exec .init s =
      .next { s.quiet with
        writes := rest, trace := s.trace ++ [.write s.cmdDaddr 0x20 0x1F (.fail e)]
        rsp := s.rsp ++ [.err e] }) ∧
  (∀ (s : State) (d : DeviceAddress) (r : Byte) (e : TErr) (rest : List ReadReply),
    s.turn = .sequencer → s.rst = false → issued s = some (.read d r) → s.reads = .fail e :: rest →
    ∃ done, s.trace <+: done ∧ done.getLast? = some (.read d r (.fail e)) ∧
      step s =
        .next { s.pass.quiet with reads := rest, trace := done, rsp := s.rsp ++ [.err e] }) ∧
  (∀ (s : State) (d : DeviceAddress) (r v : Byte) (e : TErr) (rest : List WriteReply),
    s.turn = .sequencer → s.rst = false → issued s = some (.write d r v) →
    s.writes = .fail e :: rest →
    ∃ done, s.trace <+: done ∧ done.getLast? = some (.write d r v (.fail e)) ∧
      step s =
        .next { s.pass.quiet with writes := rest, trace := done, rsp := s.rsp ++ [.err e] })

/-- R103: a transaction that never completes leaves the block in the phase whose transaction is
outstanding, with no response. For the reads of a command, for the write of INIT, and for a command in
progress: as long as the transaction is unanswered, no step of any agent moves the block or delivers a
response, the sequencer's step does nothing, and the trace does not grow. -/
def Obligations.UnansweredTransactionHangs : Prop :=
  (∀ (i : Instr) (s : State) (d : DeviceAddress) (pre : List Byte) (r : Byte),
    s.phase = .idle → s.daddr = some d → i.wellFormed = true →
    (readOffsets i)[pre.length]? = some r → s.reads = pre.map .byte →
    ∃ t, exec i s = .next t ∧ (readPhases i)[pre.length]? = some t.phase ∧
      issued t = some (.read d r) ∧ t.unanswered = true ∧ t.rsp = s.rsp ∧ t.daddr = some d ∧
      t.trace = s.trace ++ readsDone d (readOffsets i) pre) ∧
  (∀ s : State, s.phase = .idle → s.daddr = none → s.writes = [] →
    ∃ t, exec .init s = .next t ∧ t.phase = .i0 ∧
      issued t = some (.write s.cmdDaddr 0x20 0x1F) ∧ t.unanswered = true ∧ t.rsp = s.rsp ∧
      t.daddr = none ∧ t.trace = s.trace) ∧
  (∀ s : State, s.unanswered = true →
    (s.turn = .sequencer → s.rst = false → step s = .next s.pass) ∧
    ∀ t, step s = .next t →
      issued t = issued s ∧ t.phase = s.phase ∧ t.cmd = s.cmd ∧ t.daddr = s.daddr ∧
      t.lo = s.lo ∧ t.s0 = s.s0 ∧ t.s1 = s.s1 ∧ t.s2 = s.s2 ∧ t.rb = s.rb ∧
      t.rsp = s.rsp ∧ (t.unanswered = true → t.trace = s.trace))

/-- R38: the transactions of a command, in order. A command that reads performs the reads of its
list and no other transaction; the list is complete when it ends with Ok and stops at the first
failure; INIT performs its one write; the pure commands perform none. -/
def Obligations.TransactionsAsListed : Prop :=
  (∀ (i : Instr) (s t : State) (d : DeviceAddress),
    s.phase = .idle → s.daddr = some d → exec i s = .next t →
    ∃ k, k ≤ (readOffsets i).length ∧ t.reads = s.reads.drop k ∧ t.writes = s.writes ∧
      t.trace = s.trace ++
        List.zipWith (fun r v => .read d r v) ((readOffsets i).take k) (s.reads.take k) ∧
      (∀ p, t.rsp = s.rsp ++ [.ok p] →
        k = (readOffsets i).length ∧ ∃ vs : List Byte, s.reads.take k = vs.map .byte) ∧
      (∀ e, t.rsp = s.rsp ++ [.err e] →
        ∃ vs : List Byte, s.reads.take k = vs.map .byte ++ [.fail e])) ∧
  (∀ s t : State, s.phase = .idle → exec .init s = .next t → t.phase = .idle →
    ∃ reply, t.trace = s.trace ++ [.write s.cmdDaddr 0x20 0x1F reply] ∧ t.reads = s.reads) ∧
  (∀ (i : Instr) (s t : State), isPure i = true → exec i s = .next t → t.trace = s.trace)

/-- R95, R96: an error response arises only from the failure of a bus transaction, and the failure of the
transaction outstanding ends the command with it; the token is the transport's, unmodified. That the
transaction enters the trace in the very step that takes its answer and delivers the response, and not
when the transport answers, is the model's choice (assumption 17). -/
def Obligations.ErrorOnlyFromFailedTransaction : Prop :=
  (∀ (s t : State) (e : TErr), step s = .next t → t.rsp = s.rsp ++ [.err e] →
    ∃ x, t.trace = s.trace ++ [x] ∧ x.failure = some e) ∧
  (∀ (s : State) (d : DeviceAddress) (r : Byte) (e : TErr) (rest : List ReadReply),
    s.turn = .sequencer → s.rst = false → issued s = some (.read d r) → s.reads = .fail e :: rest →
    step s =
      .next { s.pass.quiet with
        reads := rest, trace := s.trace ++ [.read d r (.fail e)]
        rsp := s.rsp ++ [.err e] }) ∧
  (∀ (s : State) (d : DeviceAddress) (r v : Byte) (e : TErr) (rest : List WriteReply),
    s.turn = .sequencer → s.rst = false → issued s = some (.write d r v) →
    s.writes = .fail e :: rest →
    step s =
      .next { s.pass.quiet with
        writes := rest, trace := s.trace ++ [.write d r v (.fail e)]
        rsp := s.rsp ++ [.err e] })

/-- R82: the two forms of a bus command agree. Run from its first phase, the phase table ends where
the big-step rule does, whatever the bus answers, and also where the command hangs. -/
def Obligations.BigStepAgreesWithPhaseTable : Prop :=
  ∀ (i : Instr) (c : Command) (s : State),
    s.phase = .idle → latchedCommand s.cmdDaddr i = some c → refusedCase i s = none →
    ∀ n, 7 ≤ n → exec i s = runPhases n (s.enter c)

/-- A command that waits for the bus and is answered later ends as if the answers had been there from
the start: answered all at once, and answered one by one with a row of the phase table after each. It
ties the big-step rule `exec` to the model's step, which accepts a command with no answer there
(assumption 9) and enters a transaction into the trace as it takes the answer (assumption 17). -/
def Obligations.LateAnswersEndTheSame : Prop :=
  (∀ (i : Instr) (s t : State) (more : List ReadReply) (moreW : List WriteReply),
    s.phase = .idle → exec i s = .next t → t.phase ≠ .idle →
    exec i { s with reads := s.reads ++ more, writes := s.writes ++ moreW } =
      runPhases 7 { t with reads := t.reads ++ more, writes := t.writes ++ moreW }) ∧
  (∀ (i : Instr) (s t : State) (replies : List ReadReply),
    s.phase = .idle → s.reads = [] → exec i s = .next t →
    replies.length ≤ (readOffsets i).length → replies.dropLast.all ReadReply.isByte = true →
    exec i { s with reads := replies } = answerOneByOne replies t) ∧
  (∀ (s t : State) (w : WriteReply),
    s.phase = .idle → s.writes = [] → exec .init s = .next t →
    exec .init { s with writes := [w] } = phaseStep { t with writes := [w] })

/-- Which refusal each step answers. Where the invariants of R22 hold, a step is refused exactly in the
five cases of R102; in particular a command offered while the block is busy is not. The model's choice:
`rst` is looked at before an offer, so with `rst` asserted in `IDLE` no word is refused (assumption 8),
and `RDAXIS 0xFF` on an unconstructed block, cases 2 and 3 at once, is refused as case 2 (assumption
16). RefusedInTheListedCases says what R102 says without them. -/
def Obligations.RefusedExactlyAsListed : Prop :=
  ∀ (s : State) (r : Refusal), s.Inv →
    (step s = .refused r ↔
      s.turn = .sequencer ∧
      ((s.rst = true ∧ s.phase ≠ .idle ∧ r = .resetWhileBusy) ∨
      (s.rst = false ∧ s.phase = .idle ∧ ∃ o e, s.port = some o ∧
        decode o.word = .error e ∧ r = .reservedWord e) ∨
      (s.rst = false ∧ s.phase = .idle ∧ ∃ o i, s.port = some o ∧
        decode o.word = .ok i ∧ refusedCase i s = some r)))

/-- R102: the refused cases, complete. Where the invariants of R22 hold, a refused step is in one of the
five listed cases, and a step of the sequencer in each of them is refused, cases 1 to 4 with `rst`
low. -/
def Obligations.RefusedInTheListedCases : Prop :=
  (∀ (s : State) (r : Refusal), s.Inv → step s = .refused r →
    (s.rst = true ∧ s.phase ≠ .idle) ∨
    (s.phase = .idle ∧ ∃ o, s.port = some o ∧
      ((∀ row ∈ commandTable, row.selects o.word = false) ∨
      decode o.word = .ok (.rdaxis 0xFF) ∨
      (s.daddr = none ∧ ∃ i, decode o.word = .ok i ∧ readOffsets i ≠ []) ∨
      (s.daddr ≠ none ∧ decode o.word = .ok .init)))) ∧
  (∀ s : State, s.turn = .sequencer → s.rst = true → s.phase ≠ .idle → ∃ r, step s = .refused r) ∧
  (∀ (s : State) (o : Offer),
    s.turn = .sequencer → s.rst = false → s.phase = .idle → s.port = some o →
    ((∀ row ∈ commandTable, row.selects o.word = false) → ∃ r, step s = .refused r) ∧
    (decode o.word = .ok (.rdaxis 0xFF) → ∃ r, step s = .refused r) ∧
    (∀ i, decode o.word = .ok i → readOffsets i ≠ [] → s.daddr = none →
      ∃ r, step s = .refused r) ∧
    (∀ d, decode o.word = .ok .init → s.daddr = some d → ∃ r, step s = .refused r))

/-- Every command that is not one of the refused cases answers a next state, in every state in
`IDLE`; none ever answers a fault there. -/
def Obligations.UnrefusedCommandsRun : Prop :=
  ∀ (i : Instr) (s : State), s.phase = .idle →
    (refusedCase i s = none → ∃ t, exec i s = .next t) ∧
    ∀ f, exec i s ≠ .fault f

/-! ## The whole machine -/

/-- R22: the invariants hold at reset, and so does what the model says of the ports (assumptions 5
to 7). -/
def Obligations.ResetMeetsInvariants : Prop := State.reset.Inv ∧ State.reset.PortsFit

/-- R22: every step, of whatever agent, keeps the invariants. So it does for what the model says of the
ports: an answer stands there only to the transaction outstanding, one at most (assumptions 5, 7). -/
def Obligations.StepKeepsInvariants : Prop :=
  ∀ s t : State, step s = .next t → (s.Inv → t.Inv) ∧ (s.PortsFit → t.PortsFit)

/-- R12, R22: no phase reads a holding register that holds no value; where the invariants hold no
step ends in a fault. -/
def Obligations.InvariantsExcludeFaults : Prop :=
  ∀ (s : State) (f : Fault), s.Inv → step s ≠ .fault f

/-- R12, R126: when a command has ended, no command is latched and no holding register holds a
value. -/
def Obligations.EndedCommandLeavesNothing : Prop :=
  ∀ (i : Instr) (s t : State), s.phase = .idle → s.IdleClean → exec i s = .next t →
    t.phase = .idle → t = { t.quiet with phase := .idle }

/-- R10: once the device address is held no step changes it until reset; a step that sets it is the
end of an INIT with Ok, whose address it is. In the states of R22 (d). That the write enters the trace in
that step, as its answer is taken, is assumption 17. -/
def Obligations.DaddrWrittenByInitOnly : Prop :=
  ∀ s t : State, s.Inv → s.rst = false → step s = .next t →
    (∀ a, s.daddr = some a → t.daddr = some a) ∧
    (∀ a, s.daddr = none → t.daddr = some a →
      t.trace = s.trace ++ [.write a 0x20 0x1F .ack] ∧ t.rsp = s.rsp ++ [.ok .unit] ∧
      s.phase = .i0 ∧ s.cmd = some (.init a))

/-- R11: a step keeps "constructed implies that the configuration write to that address has
completed". -/
def Obligations.ConstructedImpliesWritten : Prop :=
  State.reset.ConstructedByWrite ∧
  ∀ s t : State, s.ConstructedByWrite → step s = .next t → t.ConstructedByWrite

/-- R27, R97: a step only adds to the bus trace; every write it adds is 0x1F to 0x20. -/
def Obligations.OnlyConfigWrites : Prop :=
  ∀ s t : State, step s = .next t →
    ∃ new, t.trace = s.trace ++ new ∧ ∀ x ∈ new, x.configWriteOnly = true

/-- R25: the transactions of a constructed block all go to the address in `daddr`. -/
def Obligations.ReadsGoToDaddr : Prop :=
  ∀ (s t : State) (d : DeviceAddress), s.Inv → s.daddr = some d → step s = .next t →
    ∃ new, t.trace = s.trace ++ new ∧ ∀ x ∈ new, x.target = d

/-- R18: what a command adds to the responses and to the trace is a function of the command, of
`daddr`, of `cmd_daddr` and of the replies alone. -/
def Obligations.ResponseIsStateless : Prop :=
  ∀ (i : Instr) (s s' t : State), s.phase = .idle → t.phase = .idle →
    t.daddr = s.daddr → t.cmdDaddr = s.cmdDaddr → t.reads = s.reads → t.writes = s.writes →
    exec i s = .next s' →
    ∃ (t' : State) (newTrace : List Transaction) (newRsp : List Response),
      exec i t = .next t' ∧ t'.daddr = s'.daddr ∧
      s'.trace = s.trace ++ newTrace ∧ t'.trace = t.trace ++ newTrace ∧
      s'.rsp = s.rsp ++ newRsp ∧ t'.rsp = t.rsp ++ newRsp

/-- R49: the address INIT writes to and holds is the value on `cmd_daddr` when it is accepted, whatever
stands there afterwards; every other command ignores `cmd_daddr`. -/
def Obligations.CmdDaddrOnlyForInit : Prop :=
  (∀ (s : State) (o : Offer),
    s.turn = .sequencer → s.rst = false → s.phase = .idle → s.daddr = none → s.port = some o →
    decode o.word = .ok .init →
    ∃ t, step s = .next t ∧ issued t = some (.write o.daddr 0x20 0x1F) ∧
      ∀ (later : DeviceAddress) (more : List WriteReply),
        (∃ u, step { t with turn := .sequencer, cmdDaddr := later, writes := .ack :: more } =
          .next u ∧ u.daddr = some o.daddr) ∧
        ∀ r, ∃ u, step { busAct r (some .ack) t with turn := .sequencer, cmdDaddr := later } =
          .next u ∧ u.daddr = some o.daddr ∧ u.trace = s.trace ++ [.write o.daddr 0x20 0x1F .ack]) ∧
  (∀ (i : Instr) (s t : State) (a : DeviceAddress), i ≠ .init → exec i s = .next t →
    exec i { s with cmdDaddr := a } = .next { t with cmdDaddr := a })

/-- R46, R50: a command delivers one response when it ends and none while it is in progress; an `Ok`
carries the payload kind of its command; a pure command cannot end with `Err`, every bus command
can. -/
def Obligations.OneResponseOfTheRightKind : Prop :=
  (∀ (i : Instr) (s t : State), s.phase = .idle → exec i s = .next t →
    (t.phase = .idle → ∃ r, t.rsp = s.rsp ++ [r] ∧
      (∀ p, r = .ok p → p.kind = payloadKind i) ∧ (∀ e, r = .err e → isPure i = false)) ∧
    (t.phase ≠ .idle → t.rsp = s.rsp)) ∧
  (∀ (i : Instr) (e : TErr), isPure i = false → i.wellFormed = true →
    ∃ s t, s.phase = .idle ∧ exec i s = .next t ∧ t.rsp = s.rsp ++ [.err e])

/-- The frame of every command: what it leaves unchanged, and that it only consumes replies and only
adds to the trace and to the responses. -/
def Obligations.CommandFrame : Prop :=
  ∀ (i : Instr) (s t : State), s.phase = .idle → exec i s = .next t →
    t.port = s.port ∧ t.cmdDaddr = s.cmdDaddr ∧ t.rst = s.rst ∧ t.taken = s.taken ∧
    t.turn = s.turn ∧ t.moves = s.moves ∧
    (i ≠ .init → t.daddr = s.daddr ∧ t.writes = s.writes) ∧
    (i = .init → t.reads = s.reads) ∧
    (∃ n, t.reads = s.reads.drop n) ∧ (∃ n, t.writes = s.writes.drop n) ∧
    (∃ new, t.trace = s.trace ++ new) ∧ (∃ new, t.rsp = s.rsp ++ new) ∧
    (readOffsets i = [] → i ≠ .init → t = { s with rsp := t.rsp })

/-- R107: a range byte that is none of the five is no error anywhere. RDRANGE.DEC and DECRANGE give
`Unknown`; SCALE gives the ±2g modifier; RDACCEL answers as with the byte 0x00, so its response
carries no sign of the fallback. -/
def Obligations.UnknownRangeIsNoError : Prop :=
  ∀ b ∉ [(0x00 : Byte), 0x08, 0x10, 0x18, 0x20],
    (∀ s : State, s.phase = .idle →
      exec (.decrange b) s = .next { s with rsp := s.rsp ++ [.ok (.decoded .unknown)] } ∧
      exec (.scale b) s =
        .next { s with rsp := s.rsp ++ [.ok (.modifier 0x40D0000000000000)] }) ∧
    (∀ (s : State) (d : DeviceAddress) (rest : List ReadReply),
      s.phase = .idle → s.daddr = some d → s.reads = .byte b :: rest →
      ∃ t, exec .rdrangeDec s = .next t ∧ t.rsp = s.rsp ++ [.ok (.decoded .unknown)]) ∧
    (∀ (i : Instr) (s : State) (d : DeviceAddress) (pre : List Byte) (rest : List ReadReply),
      (i = .rdaccelG ∨ i = .rdaccelMs2) → s.phase = .idle → s.daddr = some d →
      pre.length = 6 → s.reads = pre.map .byte ++ .byte b :: rest →
      ∃ t t' p, exec i s = .next t ∧
        exec i { s with reads := pre.map .byte ++ .byte 0x00 :: rest } = .next t' ∧
        t.rsp = s.rsp ++ [.ok p] ∧ t'.rsp = s.rsp ++ [.ok p])

/-- R51: the response word. For every `Ok`: `status` 0, the `kind` code, and for each kind its `data`
bits, the rest zero. For an error: `status` 1 and the token beside the word; nothing is said of its
other bits, which are free. -/
def Obligations.ResponseWordLayout : Prop :=
  (∀ (n : Nat) (p : Payload),
    let w := (Response.ok p).word n
    w.extractLsb' 195 1 = 0 ∧ (Response.ok p).terr = none ∧
    match p with
    | .unit => w.extractLsb' 192 3 = 0 ∧ w.extractLsb' 0 192 = 0
    | .sample s =>
      w.extractLsb' 192 3 = 1 ∧ w.extractLsb' 0 16 = s ∧ w.extractLsb' 16 176 = 0
    | .raw b => w.extractLsb' 192 3 = 2 ∧ w.extractLsb' 0 8 = b ∧ w.extractLsb' 8 184 = 0
    | .decoded r =>
      w.extractLsb' 192 3 = 3 ∧ (w.extractLsb' 0 8).toInt = rangeCode r ∧
      w.extractLsb' 8 184 = 0
    | .modifier m =>
      w.extractLsb' 192 3 = 4 ∧ w.extractLsb' 0 64 = m ∧ w.extractLsb' 64 128 = 0
    | .accel x y z =>
      w.extractLsb' 192 3 = 5 ∧ w.extractLsb' 0 64 = x ∧ w.extractLsb' 64 64 = y ∧
      w.extractLsb' 128 64 = z) ∧
  (∀ (n : Nat) (e : TErr),
    ((Response.err e).word n).extractLsb' 195 1 = 1 ∧ (Response.err e).terr = some e)
end

