-- ==== Sys2Proof/Laws/Decode.lean ====
section
/-! SUPPORT. The fields of a command word and the selection of a row, field by field
(spec/30_encoding.md R47, R48). -/

namespace Sys2Proof

section Fields

variable (op m : BitVec 4) (b a : Byte)

/-- A word as a number, by the places of its fields. -/
theorem toNat_assembleFields :
    (assembleFields op m b a).toNat =
      op.toNat * 2 ^ 20 + m.toNat * 2 ^ 16 + b.toNat * 2 ^ 8 + a.toNat := by
  unfold assembleFields
  simp only [BitVec.toNat_append]
  rw [← Nat.shiftLeft_add_eq_or_of_lt (by omega), ← Nat.shiftLeft_add_eq_or_of_lt (by omega),
    ← Nat.shiftLeft_add_eq_or_of_lt (by omega)]
  simp only [Nat.shiftLeft_eq]
  omega

@[simp] theorem fieldOp_assembleFields : fieldOp (assembleFields op m b a) = op := by
  apply BitVec.eq_of_toNat_eq
  simp only [fieldOp, BitVec.extractLsb'_toNat, toNat_assembleFields, Nat.shiftRight_eq_div_pow]
  omega

@[simp] theorem fieldMod_assembleFields : fieldMod (assembleFields op m b a) = m := by
  apply BitVec.eq_of_toNat_eq
  simp only [fieldMod, BitVec.extractLsb'_toNat, toNat_assembleFields, Nat.shiftRight_eq_div_pow]
  omega

@[simp] theorem fieldB_assembleFields : fieldB (assembleFields op m b a) = b := by
  apply BitVec.eq_of_toNat_eq
  simp only [fieldB, BitVec.extractLsb'_toNat, toNat_assembleFields, Nat.shiftRight_eq_div_pow]
  omega

@[simp] theorem fieldA_assembleFields : fieldA (assembleFields op m b a) = a := by
  apply BitVec.eq_of_toNat_eq
  simp only [fieldA, BitVec.extractLsb'_toNat, toNat_assembleFields, Nat.shiftRight_eq_div_pow]
  omega

end Fields

/-- A word is its four fields: no bit lies outside them (R47). -/
theorem assembleFields_fields (w : CommandWord) :
    assembleFields (fieldOp w) (fieldMod w) (fieldB w) (fieldA w) = w := by
  apply BitVec.eq_of_toNat_eq
  have := w.isLt
  simp only [fieldOp, fieldMod, fieldB, fieldA, BitVec.extractLsb'_toNat, toNat_assembleFields,
    Nat.shiftRight_eq_div_pow]
  omega

section And

variable (w v : CommandWord)

theorem fieldOp_and : fieldOp (w &&& v) = fieldOp w &&& fieldOp v := BitVec.extractLsb'_and

theorem fieldMod_and : fieldMod (w &&& v) = fieldMod w &&& fieldMod v := BitVec.extractLsb'_and

theorem fieldB_and : fieldB (w &&& v) = fieldB w &&& fieldB v := BitVec.extractLsb'_and

theorem fieldA_and : fieldA (w &&& v) = fieldA w &&& fieldA v := BitVec.extractLsb'_and

end And

/-- A row selects a word field by field. -/
theorem selects_assembleFields (r : Row) (op m : BitVec 4) (b a : Byte) :
    r.selects (assembleFields op m b a) = true ↔
      op &&& fieldOp r.mask = fieldOp r.pattern ∧ m &&& fieldMod r.mask = fieldMod r.pattern ∧
      b &&& fieldB r.mask = fieldB r.pattern ∧ a &&& fieldA r.mask = fieldA r.pattern := by
  have key : assembleFields op m b a &&& r.mask =
      assembleFields (op &&& fieldOp r.mask) (m &&& fieldMod r.mask) (b &&& fieldB r.mask)
        (a &&& fieldA r.mask) := by
    rw [← assembleFields_fields (assembleFields op m b a &&& r.mask)]
    simp only [fieldOp_and, fieldMod_and, fieldB_and, fieldA_and, fieldOp_assembleFields,
      fieldMod_assembleFields, fieldB_assembleFields, fieldA_assembleFields]
  unfold Row.selects
  rw [beq_iff_eq, key]
  constructor
  · intro h
    rw [← h]
    simp
  · rintro ⟨h1, h2, h3, h4⟩
    rw [h1, h2, h3, h4, assembleFields_fields]

end Sys2Proof
end

