-- ==== Sys2Proof/Laws/State.lean ====
section
/-! SUPPORT. One lemma per field per update of the state (spec/10_state.md), so that no proof unfolds
a record update. -/

namespace Sys2Proof.Machine

variable (s : State)

/-! ### quiet -/

@[simp] theorem State.quiet_daddr : (s.quiet).daddr = s.daddr := rfl
@[simp] theorem State.quiet_phase : (s.quiet).phase = .idle := rfl
@[simp] theorem State.quiet_cmd : (s.quiet).cmd = none := rfl
@[simp] theorem State.quiet_lo : (s.quiet).lo = none := rfl
@[simp] theorem State.quiet_s0 : (s.quiet).s0 = none := rfl
@[simp] theorem State.quiet_s1 : (s.quiet).s1 = none := rfl
@[simp] theorem State.quiet_s2 : (s.quiet).s2 = none := rfl
@[simp] theorem State.quiet_rb : (s.quiet).rb = none := rfl
@[simp] theorem State.quiet_port : (s.quiet).port = s.port := rfl
@[simp] theorem State.quiet_cmdDaddr : (s.quiet).cmdDaddr = s.cmdDaddr := rfl
@[simp] theorem State.quiet_rst : (s.quiet).rst = s.rst := rfl
@[simp] theorem State.quiet_reads : (s.quiet).reads = s.reads := rfl
@[simp] theorem State.quiet_writes : (s.quiet).writes = s.writes := rfl
@[simp] theorem State.quiet_trace : (s.quiet).trace = s.trace := rfl
@[simp] theorem State.quiet_rsp : (s.quiet).rsp = s.rsp := rfl
@[simp] theorem State.quiet_taken : (s.quiet).taken = s.taken := rfl
@[simp] theorem State.quiet_turn : (s.quiet).turn = s.turn := rfl
@[simp] theorem State.quiet_moves : (s.quiet).moves = s.moves := rfl

/-! ### deliver -/

@[simp] theorem State.deliver_daddr (r : Response) : (s.deliver r).daddr = s.daddr := rfl
@[simp] theorem State.deliver_phase (r : Response) : (s.deliver r).phase = s.phase := rfl
@[simp] theorem State.deliver_cmd (r : Response) : (s.deliver r).cmd = s.cmd := rfl
@[simp] theorem State.deliver_lo (r : Response) : (s.deliver r).lo = s.lo := rfl
@[simp] theorem State.deliver_s0 (r : Response) : (s.deliver r).s0 = s.s0 := rfl
@[simp] theorem State.deliver_s1 (r : Response) : (s.deliver r).s1 = s.s1 := rfl
@[simp] theorem State.deliver_s2 (r : Response) : (s.deliver r).s2 = s.s2 := rfl
@[simp] theorem State.deliver_rb (r : Response) : (s.deliver r).rb = s.rb := rfl
@[simp] theorem State.deliver_port (r : Response) : (s.deliver r).port = s.port := rfl
@[simp] theorem State.deliver_cmdDaddr (r : Response) : (s.deliver r).cmdDaddr = s.cmdDaddr := rfl
@[simp] theorem State.deliver_rst (r : Response) : (s.deliver r).rst = s.rst := rfl
@[simp] theorem State.deliver_reads (r : Response) : (s.deliver r).reads = s.reads := rfl
@[simp] theorem State.deliver_writes (r : Response) : (s.deliver r).writes = s.writes := rfl
@[simp] theorem State.deliver_trace (r : Response) : (s.deliver r).trace = s.trace := rfl
@[simp] theorem State.deliver_rsp (r : Response) : (s.deliver r).rsp = s.rsp ++ [r] := rfl
@[simp] theorem State.deliver_taken (r : Response) : (s.deliver r).taken = s.taken := rfl
@[simp] theorem State.deliver_turn (r : Response) : (s.deliver r).turn = s.turn := rfl
@[simp] theorem State.deliver_moves (r : Response) : (s.deliver r).moves = s.moves := rfl

/-! ### record -/

@[simp] theorem State.record_daddr (x : Transaction) : (s.record x).daddr = s.daddr := rfl
@[simp] theorem State.record_phase (x : Transaction) : (s.record x).phase = s.phase := rfl
@[simp] theorem State.record_cmd (x : Transaction) : (s.record x).cmd = s.cmd := rfl
@[simp] theorem State.record_lo (x : Transaction) : (s.record x).lo = s.lo := rfl
@[simp] theorem State.record_s0 (x : Transaction) : (s.record x).s0 = s.s0 := rfl
@[simp] theorem State.record_s1 (x : Transaction) : (s.record x).s1 = s.s1 := rfl
@[simp] theorem State.record_s2 (x : Transaction) : (s.record x).s2 = s.s2 := rfl
@[simp] theorem State.record_rb (x : Transaction) : (s.record x).rb = s.rb := rfl
@[simp] theorem State.record_port (x : Transaction) : (s.record x).port = s.port := rfl
@[simp] theorem State.record_cmdDaddr (x : Transaction) : (s.record x).cmdDaddr = s.cmdDaddr := rfl
@[simp] theorem State.record_rst (x : Transaction) : (s.record x).rst = s.rst := rfl
@[simp] theorem State.record_reads (x : Transaction) : (s.record x).reads = s.reads := rfl
@[simp] theorem State.record_writes (x : Transaction) : (s.record x).writes = s.writes := rfl
@[simp] theorem State.record_trace (x : Transaction) : (s.record x).trace = s.trace ++ [x] := rfl
@[simp] theorem State.record_rsp (x : Transaction) : (s.record x).rsp = s.rsp := rfl
@[simp] theorem State.record_taken (x : Transaction) : (s.record x).taken = s.taken := rfl
@[simp] theorem State.record_turn (x : Transaction) : (s.record x).turn = s.turn := rfl
@[simp] theorem State.record_moves (x : Transaction) : (s.record x).moves = s.moves := rfl

/-! ### enter -/

@[simp] theorem State.enter_daddr (c : Command) : (s.enter c).daddr = s.daddr := rfl
@[simp] theorem State.enter_phase (c : Command) : (s.enter c).phase = c.firstPhase := rfl
@[simp] theorem State.enter_cmd (c : Command) : (s.enter c).cmd = some c := rfl
@[simp] theorem State.enter_lo (c : Command) : (s.enter c).lo = s.lo := rfl
@[simp] theorem State.enter_s0 (c : Command) : (s.enter c).s0 = s.s0 := rfl
@[simp] theorem State.enter_s1 (c : Command) : (s.enter c).s1 = s.s1 := rfl
@[simp] theorem State.enter_s2 (c : Command) : (s.enter c).s2 = s.s2 := rfl
@[simp] theorem State.enter_rb (c : Command) : (s.enter c).rb = s.rb := rfl
@[simp] theorem State.enter_port (c : Command) : (s.enter c).port = s.port := rfl
@[simp] theorem State.enter_cmdDaddr (c : Command) : (s.enter c).cmdDaddr = s.cmdDaddr := rfl
@[simp] theorem State.enter_rst (c : Command) : (s.enter c).rst = s.rst := rfl
@[simp] theorem State.enter_reads (c : Command) : (s.enter c).reads = s.reads := rfl
@[simp] theorem State.enter_writes (c : Command) : (s.enter c).writes = s.writes := rfl
@[simp] theorem State.enter_trace (c : Command) : (s.enter c).trace = s.trace := rfl
@[simp] theorem State.enter_rsp (c : Command) : (s.enter c).rsp = s.rsp := rfl
@[simp] theorem State.enter_taken (c : Command) : (s.enter c).taken = s.taken := rfl
@[simp] theorem State.enter_turn (c : Command) : (s.enter c).turn = s.turn := rfl
@[simp] theorem State.enter_moves (c : Command) : (s.enter c).moves = s.moves := rfl

/-! ### latchLo -/

@[simp] theorem State.latchLo_daddr (v : Byte) (p : Phase) : (s.latchLo v p).daddr = s.daddr := rfl
@[simp] theorem State.latchLo_phase (v : Byte) (p : Phase) : (s.latchLo v p).phase = p := rfl
@[simp] theorem State.latchLo_cmd (v : Byte) (p : Phase) : (s.latchLo v p).cmd = s.cmd := rfl
@[simp] theorem State.latchLo_lo (v : Byte) (p : Phase) : (s.latchLo v p).lo = some v := rfl
@[simp] theorem State.latchLo_s0 (v : Byte) (p : Phase) : (s.latchLo v p).s0 = s.s0 := rfl
@[simp] theorem State.latchLo_s1 (v : Byte) (p : Phase) : (s.latchLo v p).s1 = s.s1 := rfl
@[simp] theorem State.latchLo_s2 (v : Byte) (p : Phase) : (s.latchLo v p).s2 = s.s2 := rfl
@[simp] theorem State.latchLo_rb (v : Byte) (p : Phase) : (s.latchLo v p).rb = s.rb := rfl
@[simp] theorem State.latchLo_port (v : Byte) (p : Phase) : (s.latchLo v p).port = s.port := rfl
@[simp] theorem State.latchLo_cmdDaddr (v : Byte) (p : Phase) :
    (s.latchLo v p).cmdDaddr = s.cmdDaddr := rfl
@[simp] theorem State.latchLo_rst (v : Byte) (p : Phase) : (s.latchLo v p).rst = s.rst := rfl
@[simp] theorem State.latchLo_reads (v : Byte) (p : Phase) : (s.latchLo v p).reads = s.reads := rfl
@[simp] theorem State.latchLo_writes (v : Byte) (p : Phase) :
    (s.latchLo v p).writes = s.writes := rfl
@[simp] theorem State.latchLo_trace (v : Byte) (p : Phase) : (s.latchLo v p).trace = s.trace := rfl
@[simp] theorem State.latchLo_rsp (v : Byte) (p : Phase) : (s.latchLo v p).rsp = s.rsp := rfl
@[simp] theorem State.latchLo_taken (v : Byte) (p : Phase) : (s.latchLo v p).taken = s.taken := rfl
@[simp] theorem State.latchLo_turn (v : Byte) (p : Phase) : (s.latchLo v p).turn = s.turn := rfl
@[simp] theorem State.latchLo_moves (v : Byte) (p : Phase) : (s.latchLo v p).moves = s.moves := rfl

/-! ### latchS0 -/

@[simp] theorem State.latchS0_daddr (v : Sample16) (p : Phase) :
    (s.latchS0 v p).daddr = s.daddr := rfl
@[simp] theorem State.latchS0_phase (v : Sample16) (p : Phase) : (s.latchS0 v p).phase = p := rfl
@[simp] theorem State.latchS0_cmd (v : Sample16) (p : Phase) : (s.latchS0 v p).cmd = s.cmd := rfl
@[simp] theorem State.latchS0_lo (v : Sample16) (p : Phase) : (s.latchS0 v p).lo = s.lo := rfl
@[simp] theorem State.latchS0_s0 (v : Sample16) (p : Phase) : (s.latchS0 v p).s0 = some v := rfl
@[simp] theorem State.latchS0_s1 (v : Sample16) (p : Phase) : (s.latchS0 v p).s1 = s.s1 := rfl
@[simp] theorem State.latchS0_s2 (v : Sample16) (p : Phase) : (s.latchS0 v p).s2 = s.s2 := rfl
@[simp] theorem State.latchS0_rb (v : Sample16) (p : Phase) : (s.latchS0 v p).rb = s.rb := rfl
@[simp] theorem State.latchS0_port (v : Sample16) (p : Phase) : (s.latchS0 v p).port = s.port := rfl
@[simp] theorem State.latchS0_cmdDaddr (v : Sample16) (p : Phase) :
    (s.latchS0 v p).cmdDaddr = s.cmdDaddr := rfl
@[simp] theorem State.latchS0_rst (v : Sample16) (p : Phase) : (s.latchS0 v p).rst = s.rst := rfl
@[simp] theorem State.latchS0_reads (v : Sample16) (p : Phase) :
    (s.latchS0 v p).reads = s.reads := rfl
@[simp] theorem State.latchS0_writes (v : Sample16) (p : Phase) :
    (s.latchS0 v p).writes = s.writes := rfl
@[simp] theorem State.latchS0_trace (v : Sample16) (p : Phase) :
    (s.latchS0 v p).trace = s.trace := rfl
@[simp] theorem State.latchS0_rsp (v : Sample16) (p : Phase) : (s.latchS0 v p).rsp = s.rsp := rfl
@[simp] theorem State.latchS0_taken (v : Sample16) (p : Phase) :
    (s.latchS0 v p).taken = s.taken := rfl
@[simp] theorem State.latchS0_turn (v : Sample16) (p : Phase) : (s.latchS0 v p).turn = s.turn := rfl
@[simp] theorem State.latchS0_moves (v : Sample16) (p : Phase) :
    (s.latchS0 v p).moves = s.moves := rfl

/-! ### latchS1 -/

@[simp] theorem State.latchS1_daddr (v : Sample16) (p : Phase) :
    (s.latchS1 v p).daddr = s.daddr := rfl
@[simp] theorem State.latchS1_phase (v : Sample16) (p : Phase) : (s.latchS1 v p).phase = p := rfl
@[simp] theorem State.latchS1_cmd (v : Sample16) (p : Phase) : (s.latchS1 v p).cmd = s.cmd := rfl
@[simp] theorem State.latchS1_lo (v : Sample16) (p : Phase) : (s.latchS1 v p).lo = s.lo := rfl
@[simp] theorem State.latchS1_s0 (v : Sample16) (p : Phase) : (s.latchS1 v p).s0 = s.s0 := rfl
@[simp] theorem State.latchS1_s1 (v : Sample16) (p : Phase) : (s.latchS1 v p).s1 = some v := rfl
@[simp] theorem State.latchS1_s2 (v : Sample16) (p : Phase) : (s.latchS1 v p).s2 = s.s2 := rfl
@[simp] theorem State.latchS1_rb (v : Sample16) (p : Phase) : (s.latchS1 v p).rb = s.rb := rfl
@[simp] theorem State.latchS1_port (v : Sample16) (p : Phase) : (s.latchS1 v p).port = s.port := rfl
@[simp] theorem State.latchS1_cmdDaddr (v : Sample16) (p : Phase) :
    (s.latchS1 v p).cmdDaddr = s.cmdDaddr := rfl
@[simp] theorem State.latchS1_rst (v : Sample16) (p : Phase) : (s.latchS1 v p).rst = s.rst := rfl
@[simp] theorem State.latchS1_reads (v : Sample16) (p : Phase) :
    (s.latchS1 v p).reads = s.reads := rfl
@[simp] theorem State.latchS1_writes (v : Sample16) (p : Phase) :
    (s.latchS1 v p).writes = s.writes := rfl
@[simp] theorem State.latchS1_trace (v : Sample16) (p : Phase) :
    (s.latchS1 v p).trace = s.trace := rfl
@[simp] theorem State.latchS1_rsp (v : Sample16) (p : Phase) : (s.latchS1 v p).rsp = s.rsp := rfl
@[simp] theorem State.latchS1_taken (v : Sample16) (p : Phase) :
    (s.latchS1 v p).taken = s.taken := rfl
@[simp] theorem State.latchS1_turn (v : Sample16) (p : Phase) : (s.latchS1 v p).turn = s.turn := rfl
@[simp] theorem State.latchS1_moves (v : Sample16) (p : Phase) :
    (s.latchS1 v p).moves = s.moves := rfl

/-! ### latchS2 -/

@[simp] theorem State.latchS2_daddr (v : Sample16) (p : Phase) :
    (s.latchS2 v p).daddr = s.daddr := rfl
@[simp] theorem State.latchS2_phase (v : Sample16) (p : Phase) : (s.latchS2 v p).phase = p := rfl
@[simp] theorem State.latchS2_cmd (v : Sample16) (p : Phase) : (s.latchS2 v p).cmd = s.cmd := rfl
@[simp] theorem State.latchS2_lo (v : Sample16) (p : Phase) : (s.latchS2 v p).lo = s.lo := rfl
@[simp] theorem State.latchS2_s0 (v : Sample16) (p : Phase) : (s.latchS2 v p).s0 = s.s0 := rfl
@[simp] theorem State.latchS2_s1 (v : Sample16) (p : Phase) : (s.latchS2 v p).s1 = s.s1 := rfl
@[simp] theorem State.latchS2_s2 (v : Sample16) (p : Phase) : (s.latchS2 v p).s2 = some v := rfl
@[simp] theorem State.latchS2_rb (v : Sample16) (p : Phase) : (s.latchS2 v p).rb = s.rb := rfl
@[simp] theorem State.latchS2_port (v : Sample16) (p : Phase) : (s.latchS2 v p).port = s.port := rfl
@[simp] theorem State.latchS2_cmdDaddr (v : Sample16) (p : Phase) :
    (s.latchS2 v p).cmdDaddr = s.cmdDaddr := rfl
@[simp] theorem State.latchS2_rst (v : Sample16) (p : Phase) : (s.latchS2 v p).rst = s.rst := rfl
@[simp] theorem State.latchS2_reads (v : Sample16) (p : Phase) :
    (s.latchS2 v p).reads = s.reads := rfl
@[simp] theorem State.latchS2_writes (v : Sample16) (p : Phase) :
    (s.latchS2 v p).writes = s.writes := rfl
@[simp] theorem State.latchS2_trace (v : Sample16) (p : Phase) :
    (s.latchS2 v p).trace = s.trace := rfl
@[simp] theorem State.latchS2_rsp (v : Sample16) (p : Phase) : (s.latchS2 v p).rsp = s.rsp := rfl
@[simp] theorem State.latchS2_taken (v : Sample16) (p : Phase) :
    (s.latchS2 v p).taken = s.taken := rfl
@[simp] theorem State.latchS2_turn (v : Sample16) (p : Phase) : (s.latchS2 v p).turn = s.turn := rfl
@[simp] theorem State.latchS2_moves (v : Sample16) (p : Phase) :
    (s.latchS2 v p).moves = s.moves := rfl

/-! ### latchRb -/

@[simp] theorem State.latchRb_daddr (v : Byte) : (s.latchRb v).daddr = s.daddr := rfl
@[simp] theorem State.latchRb_phase (v : Byte) : (s.latchRb v).phase = s.phase := rfl
@[simp] theorem State.latchRb_cmd (v : Byte) : (s.latchRb v).cmd = s.cmd := rfl
@[simp] theorem State.latchRb_lo (v : Byte) : (s.latchRb v).lo = s.lo := rfl
@[simp] theorem State.latchRb_s0 (v : Byte) : (s.latchRb v).s0 = s.s0 := rfl
@[simp] theorem State.latchRb_s1 (v : Byte) : (s.latchRb v).s1 = s.s1 := rfl
@[simp] theorem State.latchRb_s2 (v : Byte) : (s.latchRb v).s2 = s.s2 := rfl
@[simp] theorem State.latchRb_rb (v : Byte) : (s.latchRb v).rb = some v := rfl
@[simp] theorem State.latchRb_port (v : Byte) : (s.latchRb v).port = s.port := rfl
@[simp] theorem State.latchRb_cmdDaddr (v : Byte) : (s.latchRb v).cmdDaddr = s.cmdDaddr := rfl
@[simp] theorem State.latchRb_rst (v : Byte) : (s.latchRb v).rst = s.rst := rfl
@[simp] theorem State.latchRb_reads (v : Byte) : (s.latchRb v).reads = s.reads := rfl
@[simp] theorem State.latchRb_writes (v : Byte) : (s.latchRb v).writes = s.writes := rfl
@[simp] theorem State.latchRb_trace (v : Byte) : (s.latchRb v).trace = s.trace := rfl
@[simp] theorem State.latchRb_rsp (v : Byte) : (s.latchRb v).rsp = s.rsp := rfl
@[simp] theorem State.latchRb_taken (v : Byte) : (s.latchRb v).taken = s.taken := rfl
@[simp] theorem State.latchRb_turn (v : Byte) : (s.latchRb v).turn = s.turn := rfl
@[simp] theorem State.latchRb_moves (v : Byte) : (s.latchRb v).moves = s.moves := rfl

/-! ### construct -/

@[simp] theorem State.construct_daddr (a : DeviceAddress) : (s.construct a).daddr = some a := rfl
@[simp] theorem State.construct_phase (a : DeviceAddress) : (s.construct a).phase = s.phase := rfl
@[simp] theorem State.construct_cmd (a : DeviceAddress) : (s.construct a).cmd = s.cmd := rfl
@[simp] theorem State.construct_lo (a : DeviceAddress) : (s.construct a).lo = s.lo := rfl
@[simp] theorem State.construct_s0 (a : DeviceAddress) : (s.construct a).s0 = s.s0 := rfl
@[simp] theorem State.construct_s1 (a : DeviceAddress) : (s.construct a).s1 = s.s1 := rfl
@[simp] theorem State.construct_s2 (a : DeviceAddress) : (s.construct a).s2 = s.s2 := rfl
@[simp] theorem State.construct_rb (a : DeviceAddress) : (s.construct a).rb = s.rb := rfl
@[simp] theorem State.construct_port (a : DeviceAddress) : (s.construct a).port = s.port := rfl
@[simp] theorem State.construct_cmdDaddr (a : DeviceAddress) :
    (s.construct a).cmdDaddr = s.cmdDaddr := rfl
@[simp] theorem State.construct_rst (a : DeviceAddress) : (s.construct a).rst = s.rst := rfl
@[simp] theorem State.construct_reads (a : DeviceAddress) : (s.construct a).reads = s.reads := rfl
@[simp] theorem State.construct_writes (a : DeviceAddress) :
    (s.construct a).writes = s.writes := rfl
@[simp] theorem State.construct_trace (a : DeviceAddress) : (s.construct a).trace = s.trace := rfl
@[simp] theorem State.construct_rsp (a : DeviceAddress) : (s.construct a).rsp = s.rsp := rfl
@[simp] theorem State.construct_taken (a : DeviceAddress) : (s.construct a).taken = s.taken := rfl
@[simp] theorem State.construct_turn (a : DeviceAddress) : (s.construct a).turn = s.turn := rfl
@[simp] theorem State.construct_moves (a : DeviceAddress) : (s.construct a).moves = s.moves := rfl

/-! ### accept -/

@[simp] theorem State.accept_daddr (o : Offer) : (s.accept o).daddr = s.daddr := rfl
@[simp] theorem State.accept_phase (o : Offer) : (s.accept o).phase = s.phase := rfl
@[simp] theorem State.accept_cmd (o : Offer) : (s.accept o).cmd = s.cmd := rfl
@[simp] theorem State.accept_lo (o : Offer) : (s.accept o).lo = s.lo := rfl
@[simp] theorem State.accept_s0 (o : Offer) : (s.accept o).s0 = s.s0 := rfl
@[simp] theorem State.accept_s1 (o : Offer) : (s.accept o).s1 = s.s1 := rfl
@[simp] theorem State.accept_s2 (o : Offer) : (s.accept o).s2 = s.s2 := rfl
@[simp] theorem State.accept_rb (o : Offer) : (s.accept o).rb = s.rb := rfl
@[simp] theorem State.accept_port (o : Offer) : (s.accept o).port = none := rfl
@[simp] theorem State.accept_cmdDaddr (o : Offer) : (s.accept o).cmdDaddr = o.daddr := rfl
@[simp] theorem State.accept_rst (o : Offer) : (s.accept o).rst = s.rst := rfl
@[simp] theorem State.accept_reads (o : Offer) : (s.accept o).reads = [] := rfl
@[simp] theorem State.accept_writes (o : Offer) : (s.accept o).writes = [] := rfl
@[simp] theorem State.accept_trace (o : Offer) : (s.accept o).trace = s.trace := rfl
@[simp] theorem State.accept_rsp (o : Offer) : (s.accept o).rsp = s.rsp := rfl
@[simp] theorem State.accept_taken (o : Offer) : (s.accept o).taken = s.taken := rfl
@[simp] theorem State.accept_turn (o : Offer) : (s.accept o).turn = s.turn := rfl
@[simp] theorem State.accept_moves (o : Offer) : (s.accept o).moves = s.moves := rfl

/-! ### pass -/

@[simp] theorem State.pass_daddr : (s.pass).daddr = s.daddr := rfl
@[simp] theorem State.pass_phase : (s.pass).phase = s.phase := rfl
@[simp] theorem State.pass_cmd : (s.pass).cmd = s.cmd := rfl
@[simp] theorem State.pass_lo : (s.pass).lo = s.lo := rfl
@[simp] theorem State.pass_s0 : (s.pass).s0 = s.s0 := rfl
@[simp] theorem State.pass_s1 : (s.pass).s1 = s.s1 := rfl
@[simp] theorem State.pass_s2 : (s.pass).s2 = s.s2 := rfl
@[simp] theorem State.pass_rb : (s.pass).rb = s.rb := rfl
@[simp] theorem State.pass_port : (s.pass).port = s.port := rfl
@[simp] theorem State.pass_cmdDaddr : (s.pass).cmdDaddr = s.cmdDaddr := rfl
@[simp] theorem State.pass_rst : (s.pass).rst = s.rst := rfl
@[simp] theorem State.pass_reads : (s.pass).reads = s.reads := rfl
@[simp] theorem State.pass_writes : (s.pass).writes = s.writes := rfl
@[simp] theorem State.pass_trace : (s.pass).trace = s.trace := rfl
@[simp] theorem State.pass_rsp : (s.pass).rsp = s.rsp := rfl
@[simp] theorem State.pass_taken : (s.pass).taken = s.taken := rfl
@[simp] theorem State.pass_turn : (s.pass).turn = Config.schedule s.moves := rfl
@[simp] theorem State.pass_moves : (s.pass).moves = s.moves + 1 := rfl

/-! ### resetBlock -/

@[simp] theorem State.resetBlock_daddr : (s.resetBlock).daddr = none := rfl
@[simp] theorem State.resetBlock_phase : (s.resetBlock).phase = .idle := rfl
@[simp] theorem State.resetBlock_cmd : (s.resetBlock).cmd = none := rfl
@[simp] theorem State.resetBlock_lo : (s.resetBlock).lo = none := rfl
@[simp] theorem State.resetBlock_s0 : (s.resetBlock).s0 = none := rfl
@[simp] theorem State.resetBlock_s1 : (s.resetBlock).s1 = none := rfl
@[simp] theorem State.resetBlock_s2 : (s.resetBlock).s2 = none := rfl
@[simp] theorem State.resetBlock_rb : (s.resetBlock).rb = none := rfl
@[simp] theorem State.resetBlock_port : (s.resetBlock).port = s.port := rfl
@[simp] theorem State.resetBlock_cmdDaddr : (s.resetBlock).cmdDaddr = s.cmdDaddr := rfl
@[simp] theorem State.resetBlock_rst : (s.resetBlock).rst = false := rfl
@[simp] theorem State.resetBlock_reads : (s.resetBlock).reads = s.reads := rfl
@[simp] theorem State.resetBlock_writes : (s.resetBlock).writes = s.writes := rfl
@[simp] theorem State.resetBlock_trace : (s.resetBlock).trace = s.trace := rfl
@[simp] theorem State.resetBlock_rsp : (s.resetBlock).rsp = s.rsp := rfl
@[simp] theorem State.resetBlock_taken : (s.resetBlock).taken = s.taken := rfl
@[simp] theorem State.resetBlock_turn : (s.resetBlock).turn = s.turn := rfl
@[simp] theorem State.resetBlock_moves : (s.resetBlock).moves = s.moves := rfl

/-! ### Updates that meet -/

@[simp] theorem State.quiet_quiet : s.quiet.quiet = s.quiet := rfl

@[simp] theorem State.quiet_enter (c : Command) : (s.enter c).quiet = s.quiet := rfl

@[simp] theorem State.quiet_latchLo (v : Byte) (p : Phase) : (s.latchLo v p).quiet = s.quiet := rfl

@[simp] theorem State.quiet_latchS0 (v : Sample16) (p : Phase) :
    (s.latchS0 v p).quiet = s.quiet := rfl

@[simp] theorem State.quiet_latchS1 (v : Sample16) (p : Phase) :
    (s.latchS1 v p).quiet = s.quiet := rfl

@[simp] theorem State.quiet_latchS2 (v : Sample16) (p : Phase) :
    (s.latchS2 v p).quiet = s.quiet := rfl

@[simp] theorem State.quiet_latchRb (v : Byte) : (s.latchRb v).quiet = s.quiet := rfl

/-- A state in `IDLE` with nothing latched and nothing held is its own quiet form. -/
theorem State.quiet_eq_self (hp : s.phase = .idle) (hc : s.cmd = none) (hl : s.lo = none)
    (h0 : s.s0 = none) (h1 : s.s1 = none) (h2 : s.s2 = none) (hb : s.rb = none) : s.quiet = s := by
  cases s
  simp_all [State.quiet]

end Sys2Proof.Machine
end

