-- ==== Sys2Proof/Laws/Ops.lean ====
section
/-! SUPPORT. For each shared operation, what it can do (spec/20_memory.md R25;
spec/41_bus_commands.md R81; spec/60_exceptions.md R97, R101). -/

namespace Sys2Proof.Machine

/-! ### Operands -/

/-- `base + 1` stays in the offset space exactly when `base` is not 0xFF (R33). -/
theorem highOffset_eq (base : Byte) :
    highOffset base = if base = 0xFF then none else some (base + 1) := by
  have h : base.toNat < 256 := base.isLt
  unfold highOffset
  by_cases hb : base = 0xFF
  · subst hb
    decide
  · have hn : base.toNat ≠ 255 := fun e => hb (BitVec.eq_of_toNat_eq e)
    rw [if_pos (by omega), if_neg hb]
    congr 1

theorem highOffset_of_ne {base : Byte} (h : base ≠ 0xFF) : highOffset base = some (base + 1) := by
  rw [highOffset_eq, if_neg h]

theorem toNat_add_one_of_ne {base : Byte} (h : base ≠ 0xFF) :
    (base + 1).toNat = base.toNat + 1 := by
  have hlt : base.toNat < 256 := base.isLt
  have hn : base.toNat ≠ 255 := fun e => h (BitVec.eq_of_toNat_eq e)
  rw [BitVec.toNat_add]
  simp
  omega

/-- A register that holds a value is read (R12). -/
@[simp] theorem whenHeld_some {α : Type} (v : α) (k : α → Out) : whenHeld (some v) k = k v := rfl

@[simp] theorem whenHeld_none {α : Type} (k : α → Out) :
    whenHeld none k = .fault .holdingUnwritten := rfl

/-- Everything `whenHeld` can answer. -/
theorem whenHeld_cases {α : Type} (r : Option α) (k : α → Out) :
    (∃ v, r = some v ∧ whenHeld r k = k v) ∨
      (r = none ∧ whenHeld r k = .fault .holdingUnwritten) := by
  cases r with
  | none => exact .inr ⟨rfl, rfl⟩
  | some v => exact .inl ⟨v, rfl, rfl⟩

/-! ### Acceptance -/

theorem whenIdle_idle {s : State} (h : s.phase = .idle) (k : Out) : whenIdle s k = k := if_pos h

/-- A command offered to a busy block waits (R46). -/
theorem whenIdle_busy {s : State} (h : s.phase ≠ .idle) (k : Out) : whenIdle s k = .next s :=
  if_neg h

theorem whenConstructed_some {s : State} {d : DeviceAddress} (h : s.daddr = some d)
    (k : DeviceAddress → Out) : whenConstructed s k = k d := by
  simp [whenConstructed, h]

theorem whenConstructed_none {s : State} (h : s.daddr = none) (k : DeviceAddress → Out) :
    whenConstructed s k = .refused .unconstructed := by
  simp [whenConstructed, h]

/-! ### One bus transaction -/

/-- A read that does not complete leaves the block where it is (R103). -/
theorem busRead_nil {s : State} (h : s.reads = []) (d : DeviceAddress) (r : Byte)
    (k : Byte → State → Out) : busRead s d r k = .next s := by
  simp [busRead, h]

/-- A read that returns a byte enters the trace and goes on. -/
theorem busRead_byte {s : State} {v : Byte} {rest : List ReadReply} (h : s.reads = .byte v :: rest)
    (d : DeviceAddress) (r : Byte) (k : Byte → State → Out) :
    busRead s d r k = k v ({ s with reads := rest }.record (.read d r (.byte v))) := by
  simp [busRead, h]

/-- A read that fails takes the exception (R97). -/
theorem busRead_fail {s : State} {e : TErr} {rest : List ReadReply} (h : s.reads = .fail e :: rest)
    (d : DeviceAddress) (r : Byte) (k : Byte → State → Out) :
    busRead s d r k =
      transportError ({ s with reads := rest }.record (.read d r (.fail e))) e := by
  simp [busRead, h]

/-- Everything a read can do: wait, go on with a byte, or take the exception (R25). -/
theorem busRead_cases (s : State) (d : DeviceAddress) (r : Byte) (k : Byte → State → Out) :
    (s.reads = [] ∧ busRead s d r k = .next s) ∨
    (∃ v rest, s.reads = .byte v :: rest ∧
      busRead s d r k = k v ({ s with reads := rest }.record (.read d r (.byte v)))) ∨
    (∃ e rest, s.reads = .fail e :: rest ∧
      busRead s d r k =
        transportError ({ s with reads := rest }.record (.read d r (.fail e))) e) := by
  rcases h : s.reads with _ | ⟨v | e, rest⟩
  · exact .inl ⟨rfl, busRead_nil h d r k⟩
  · exact .inr (.inl ⟨v, rest, rfl, busRead_byte h d r k⟩)
  · exact .inr (.inr ⟨e, rest, rfl, busRead_fail h d r k⟩)

theorem busWrite_nil {s : State} (h : s.writes = []) (d : DeviceAddress) (r v : Byte)
    (k : State → Out) : busWrite s d r v k = .next s := by
  simp [busWrite, h]

theorem busWrite_ack {s : State} {rest : List WriteReply} (h : s.writes = .ack :: rest)
    (d : DeviceAddress) (r v : Byte) (k : State → Out) :
    busWrite s d r v k = k ({ s with writes := rest }.record (.write d r v .ack)) := by
  simp [busWrite, h]

theorem busWrite_fail {s : State} {e : TErr} {rest : List WriteReply}
    (h : s.writes = .fail e :: rest) (d : DeviceAddress) (r v : Byte) (k : State → Out) :
    busWrite s d r v k =
      transportError ({ s with writes := rest }.record (.write d r v (.fail e))) e := by
  simp [busWrite, h]

/-- Everything a write can do: wait, go on, or take the exception (R25). -/
theorem busWrite_cases (s : State) (d : DeviceAddress) (r v : Byte) (k : State → Out) :
    (s.writes = [] ∧ busWrite s d r v k = .next s) ∨
    (∃ rest, s.writes = .ack :: rest ∧
      busWrite s d r v k = k ({ s with writes := rest }.record (.write d r v .ack))) ∨
    (∃ e rest, s.writes = .fail e :: rest ∧
      busWrite s d r v k =
        transportError ({ s with writes := rest }.record (.write d r v (.fail e))) e) := by
  rcases h : s.writes with _ | ⟨_ | e, rest⟩
  · exact .inl ⟨rfl, busWrite_nil h d r v k⟩
  · exact .inr (.inl ⟨rest, rfl, busWrite_ack h d r v k⟩)
  · exact .inr (.inr ⟨e, rest, rfl, busWrite_fail h d r v k⟩)

/-! ### Ends of a command -/

/-- Finishing answers one next state: quiet, with the response delivered (R81). -/
theorem finish_eq (s : State) (p : Payload) : finish s p = .next (s.quiet.deliver (.ok p)) := rfl

/-- Taking the exception answers one next state: quiet, `daddr` kept, the error delivered (R97). -/
theorem transportError_eq (s : State) (e : TErr) :
    transportError s e = .next (s.quiet.deliver (.err e)) := rfl

end Sys2Proof.Machine
end

