-- ==== Sys2Proof/Laws/PerInstr.lean ====
section
/-! SUPPORT. Statements about every command as syntax, one lemma per constructor
(spec/30_encoding.md R48). -/

namespace Sys2Proof.Laws.EncodeSelectsRow

/-- R48: the word of a command selects the command's row, `(w AND mask) = match`. -/
def Statement (i : Instr) : Prop := i.row.selects (encode i) = true

theorem init : Statement .init := by
  unfold Statement
  decide

theorem rdaxis (base : Byte) : Statement (.rdaxis base) := by
  simp [Statement, encode, Instr.row, selects_assembleFields, fieldOp, fieldMod, fieldB, fieldA]

theorem rdrangeDec : Statement .rdrangeDec := by
  unfold Statement
  decide

theorem rdrangeRaw : Statement .rdrangeRaw := by
  unfold Statement
  decide

theorem rdaccelG : Statement .rdaccelG := by
  unfold Statement
  decide

theorem rdaccelMs2 : Statement .rdaccelMs2 := by
  unfold Statement
  decide

theorem unpack (low high : Byte) : Statement (.unpack low high) := by
  simp [Statement, encode, Instr.row, selects_assembleFields, fieldOp, fieldMod, fieldB, fieldA]

theorem decrange (byte : Byte) : Statement (.decrange byte) := by
  simp [Statement, encode, Instr.row, selects_assembleFields, fieldOp, fieldMod, fieldB, fieldA]

theorem scale (byte : Byte) : Statement (.scale byte) := by
  simp [Statement, encode, Instr.row, selects_assembleFields, fieldOp, fieldMod, fieldB, fieldA]

end Sys2Proof.Laws.EncodeSelectsRow
end

