-- ==== Sys2Proof/Laws/Step.lean ====
section
/-! SUPPORT. What the step of each agent can do (spec/00_scope.md R8; spec/30_encoding.md R46;
spec/60_exceptions.md R102), and the rows of the phase table one by one (spec/41_bus_commands.md
R81). -/

namespace Sys2Proof.Machine

/-! ### The step of each agent -/

theorem step_host {s : State} (h : s.turn = .host) : step s = .next (hostStep s) := by
  simp [step, h]

theorem step_bus {s : State} (h : s.turn = .bus) : step s = .next (busStep s) := by
  simp [step, h]

theorem step_sequencer {s : State} (h : s.turn = .sequencer) : step s = sequencerStep s.pass := by
  simp [step, h]

/-- Everything a move of the host can do: put an offer at an empty port, count a response as taken, or
assert `rst`. -/
theorem hostAct_eq (m : HostMove) (s : State) :
    ∃ p b k, hostAct m s = { s with port := p, rst := b, taken := k } ∧
      (∀ o, s.port = some o → p = some o) ∧ (s.rst = true → b = true) ∧
      (s.taken ≤ s.rsp.length → k ≤ s.rsp.length) := by
  cases m with
  | wait => exact ⟨_, _, _, rfl, fun _ h => h, id, id⟩
  | take => exact ⟨_, _, _, rfl, fun _ h => h, id, fun _ => Nat.min_le_right _ _⟩
  | assertRst => exact ⟨_, _, _, rfl, fun _ h => h, fun _ => rfl, id⟩
  | offer o =>
    by_cases hp : s.port = none
    · exact ⟨some o, s.rst, s.taken, by simp [hostAct, hp], by simp [hp], id, id⟩
    · exact ⟨s.port, s.rst, s.taken, by simp [hostAct, hp], fun _ h => h, id, id⟩

/-- Everything the bus can do: answer the read outstanding, or the write outstanding, or nothing. -/
theorem busAct_eq (r : Option ReadReply) (w : Option WriteReply) (s : State) :
    busAct r w s = s ∨
    (∃ d q, issued s = some (.read d q) ∧ s.reads = [] ∧
      busAct r w s = { s with reads := r.toList }) ∨
    (∃ d q v, issued s = some (.write d q v) ∧ s.writes = [] ∧
      busAct r w s = { s with writes := w.toList }) := by
  unfold busAct
  split
  · split
    · exact .inr (.inl ⟨_, _, ‹_›, ‹_›, rfl⟩)
    · exact .inl rfl
  · split
    · exact .inr (.inr ⟨_, _, _, ‹_›, ‹_›, rfl⟩)
    · exact .inl rfl
  · exact .inl rfl

/-! ### The sequencer -/

theorem sequencerStep_rst {s : State} (h : s.rst = true) : sequencerStep s = onReset s := by
  simp [sequencerStep, fetch, h]

theorem sequencerStep_busy {s : State} (hr : s.rst = false) (hp : s.phase ≠ .idle) :
    sequencerStep s = phaseStep s := by
  simp [sequencerStep, fetch, hr, hp]

/-- Nothing offered: the block stays idle. -/
theorem sequencerStep_none {s : State} (hr : s.rst = false) (hp : s.phase = .idle)
    (hh : s.port = none) : sequencerStep s = .next s := by
  simp [sequencerStep, fetch, atPort, hr, hp, hh]

theorem sequencerStep_reserved {s : State} {o : Offer} {e : DecodeError} (hr : s.rst = false)
    (hp : s.phase = .idle) (hh : s.port = some o) (hd : decode o.word = .error e) :
    sequencerStep s = .refused (.reservedWord e) := by
  simp [sequencerStep, fetch, atPort, hr, hp, hh, hd]

theorem sequencerStep_command {s : State} {o : Offer} {i : Instr} (hr : s.rst = false)
    (hp : s.phase = .idle) (hh : s.port = some o) (hd : decode o.word = .ok i) :
    sequencerStep s = exec i (s.accept o) := by
  simp [sequencerStep, fetch, atPort, hr, hp, hh, hd]

/-- Everything a step of the sequencer can be: `rst`, a row of the phase table, an idle wait, a reserved
word, or a command accepted. -/
theorem sequencerStep_cases (s : State) :
    (s.rst = true ∧ sequencerStep s = onReset s) ∨
    (s.rst = false ∧ s.phase ≠ .idle ∧ sequencerStep s = phaseStep s) ∨
    (s.rst = false ∧ s.phase = .idle ∧ s.port = none ∧ sequencerStep s = .next s) ∨
    (∃ o e, s.rst = false ∧ s.phase = .idle ∧ s.port = some o ∧
      decode o.word = .error e ∧ sequencerStep s = .refused (.reservedWord e)) ∨
    (∃ o i, s.rst = false ∧ s.phase = .idle ∧ s.port = some o ∧
      decode o.word = .ok i ∧ sequencerStep s = exec i (s.accept o)) := by
  by_cases hr : s.rst = true
  · exact .inl ⟨hr, sequencerStep_rst hr⟩
  have hr' : s.rst = false := by simpa using hr
  by_cases hp : s.phase = .idle
  · rcases hh : s.port with _ | o
    · exact .inr (.inr (.inl ⟨hr', hp, rfl, sequencerStep_none hr' hp hh⟩))
    · rcases hd : decode o.word with e | i
      · exact .inr (.inr (.inr (.inl
          ⟨o, e, hr', hp, rfl, hd, sequencerStep_reserved hr' hp hh hd⟩)))
      · exact .inr (.inr (.inr (.inr
          ⟨o, i, hr', hp, rfl, hd, sequencerStep_command hr' hp hh hd⟩)))
  · exact .inr (.inl ⟨hr', hp, sequencerStep_busy hr' hp⟩)

theorem onReset_idle {s : State} (h : s.phase = .idle) : onReset s = .next s.resetBlock := if_pos h

theorem onReset_busy {s : State} (h : s.phase ≠ .idle) : onReset s = .refused .resetWhileBusy :=
  if_neg h

/-- Everything `exec` can answer at the state in which a command has just been accepted: a refusal of
R102, the response of a pure command, or the first phase of a bus command. -/
theorem exec_accept_cases (i : Instr) (o : Offer) {s : State} (hp : s.phase = .idle) :
    (∃ r, refusedCase i s = some r ∧ exec i (s.accept o) = .refused r) ∨
    (refusedCase i s = none ∧ isPure i = true ∧
      ∃ p, exec i (s.accept o) = .next ((s.accept o).deliver (.ok p))) ∨
    (refusedCase i s = none ∧ ∃ c, latchedCommand o.daddr i = some c ∧ c.legal = true ∧
      c.firstPhase ∈ c.phases ∧ (s.enter c).AddressFits ∧
      exec i (s.accept o) = .next ((s.accept o).enter c)) := by
  obtain ⟨daddr, phase, cmd, lo, s0, s1, s2, rb, port, cd, rst, reads, writes, trace, rsp, taken,
    turn, moves⟩ := s
  subst hp
  have fits : ∀ c : Command, c.firstPhase ∈ c.phases := fun c => by
    cases c <;> simp [Command.firstPhase, Command.phases]
  cases i
  case unpack | decrange | scale => exact .inr (.inl ⟨rfl, rfl, _, rfl⟩)
  case rdaxis base =>
    by_cases hb : base = 255#8
    · subst hb
      exact .inl ⟨_, rfl, by rcases daddr with _ | d <;> rfl⟩
    · have hh : highOffset base = some (base + 1) := highOffset_of_ne hb
      rcases daddr with _ | d
      · exact .inl ⟨.unconstructed, by simp [refusedCase, hb],
          by simp [exec, execRdaxis, whenIdle, whenConstructed, hh, State.accept]⟩
      · exact .inr (.inr ⟨by simp [refusedCase, hb], _, rfl, by simpa [Command.legal] using hb,
          fits _, by simp [State.AddressFits, Command.firstPhase],
          by simp [exec, execRdaxis, whenIdle, whenConstructed, hh, busRead, State.accept,
            State.enter]⟩)
  all_goals
    rcases daddr with _ | d
    all_goals
      first
      | exact .inl ⟨_, rfl, rfl⟩
      | exact .inr (.inr ⟨rfl, _, rfl, rfl, fits _,
          by simp [State.AddressFits, Command.firstPhase, Phase.reading], rfl⟩)

/-! ### Everything a step can do -/

/-- The host's step, by what it changes. -/
def HostEffect (s t : State) : Prop :=
  ∃ p b k, t = { s.pass with port := p, rst := b, taken := k } ∧
    (∀ o, s.port = some o → p = some o) ∧ (s.rst = true → b = true) ∧
    (s.taken ≤ s.rsp.length → k ≤ s.rsp.length)

/-- The step of the bus, by what it changes. -/
def BusEffect (s t : State) : Prop :=
  t = s.pass ∨
  (∃ d q, issued s = some (.read d q) ∧ s.reads = [] ∧
    ∃ r : Option ReadReply, t = { s.pass with reads := r.toList }) ∨
  (∃ d q v, issued s = some (.write d q v) ∧ s.writes = [] ∧
    ∃ w : Option WriteReply, t = { s.pass with writes := w.toList })

/-- The step of the sequencer: reset, a row of the phase table, an idle wait, a pure command, or the
first phase of a bus command. -/
def SequencerEffect (s t : State) : Prop :=
  (s.rst = true ∧ s.phase = .idle ∧ t = s.pass.resetBlock) ∨
  (s.rst = false ∧ s.phase ≠ .idle ∧ phaseStep s.pass = .next t) ∨
  (s.rst = false ∧ s.phase = .idle ∧ t = s.pass) ∨
  (∃ o i, s.rst = false ∧ s.phase = .idle ∧ s.port = some o ∧ decode o.word = .ok i ∧
    isPure i = true ∧ ∃ p, t = (s.pass.accept o).deliver (.ok p)) ∨
  (∃ o i c, s.rst = false ∧ s.phase = .idle ∧ s.port = some o ∧ decode o.word = .ok i ∧
    refusedCase i s = none ∧ latchedCommand o.daddr i = some c ∧ c.legal = true ∧
    c.firstPhase ∈ c.phases ∧ (s.enter c).AddressFits ∧ t = (s.pass.accept o).enter c)

/-- Inversion of a step that answers a next state, for the agent whose turn it was. -/
theorem step_effect {s t : State} (h : step s = .next t) :
    (s.turn = .host ∧ HostEffect s t) ∨ (s.turn = .bus ∧ BusEffect s t) ∨
      (s.turn = .sequencer ∧ SequencerEffect s t) := by
  rcases ht : s.turn
  · rw [step_host ht] at h
    cases h
    obtain ⟨p, b, k, e, h1, h2, h3⟩ := hostAct_eq (Config.hostMove s.moves) s.pass
    exact .inl ⟨rfl, p, b, k, e, h1, h2, h3⟩
  · rw [step_sequencer ht] at h
    refine .inr (.inr ⟨rfl, ?_⟩)
    rcases sequencerStep_cases s.pass with ⟨h1, e⟩ | ⟨h1, h2, e⟩ | ⟨h1, h2, _, e⟩ |
      ⟨_, _, _, _, _, _, e⟩ | ⟨o, i, h1, h2, h3, h4, e⟩ <;> rw [e] at h
    · unfold onReset at h
      split at h <;> cases h
      exact .inl ⟨h1, ‹_›, rfl⟩
    · exact .inr (.inl ⟨h1, h2, h⟩)
    · cases h
      exact .inr (.inr (.inl ⟨h1, h2, rfl⟩))
    · cases h
    · rcases exec_accept_cases i o h2 with ⟨_, _, e⟩ | ⟨_, hp, p, e⟩ | ⟨hx, c, hc, hl, hf, ha, e⟩ <;>
        rw [e] at h <;> cases h
      · exact .inr (.inr (.inr (.inl ⟨o, i, h1, h2, h3, h4, hp, p, rfl⟩)))
      · exact .inr (.inr (.inr (.inr ⟨o, i, c, h1, h2, h3, h4, hx, hc, hl, hf, ha, rfl⟩)))
  · rw [step_bus ht] at h
    cases h
    refine .inr (.inl ⟨rfl, ?_⟩)
    rcases busAct_eq (Config.readAnswer s.moves) (Config.writeAnswer s.moves) s.pass with
      e | ⟨d, q, h1, h2, e⟩ | ⟨d, q, v, h1, h2, e⟩
    · exact .inl e
    · exact .inr (.inl ⟨d, q, h1, h2, _, e⟩)
    · exact .inr (.inr ⟨d, q, v, h1, h2, _, e⟩)

/-! ### The phase table -/

theorem phaseRead_some {s : State} {d : DeviceAddress} (h : s.daddr = some d) (r : Byte)
    (k : Byte → State → Out) : phaseRead s r k = busRead s d r k := by
  simp [phaseRead, h]

theorem phaseRead_none {s : State} (h : s.daddr = none) (r : Byte) (k : Byte → State → Out) :
    phaseRead s r k = .fault .addressUnset := by
  simp [phaseRead, h]

theorem phaseReadHigh_of_ne {base : Byte} (h : base ≠ 0xFF) (s : State)
    (k : Byte → State → Out) : phaseReadHigh s base k = phaseRead s (base + 1) k := by
  simp [phaseReadHigh, highOffset_of_ne h]

section Rows

variable {s : State}

theorem phaseStep_idle (hp : s.phase = .idle) (hc : s.cmd = none) : phaseStep s = .next s := by
  simp [phaseStep, hp, hc]

theorem phaseStep_i0 {a : DeviceAddress} (hp : s.phase = .i0) (hc : s.cmd = some (.init a)) :
    phaseStep s =
      busWrite s a Config.regCtrl4 Config.initValue fun t => finish (t.construct a) .unit := by
  simp [phaseStep, hp, hc]

theorem phaseStep_a0 {base : Byte} (hp : s.phase = .a0) (hc : s.cmd = some (.rdaxis base)) :
    phaseStep s = phaseRead s base fun v t => .next (t.latchLo v .a1) := by
  simp [phaseStep, hp, hc]

theorem phaseStep_a1 {base : Byte} (hp : s.phase = .a1) (hc : s.cmd = some (.rdaxis base)) :
    phaseStep s =
      phaseReadHigh s base fun v t => withSample t v fun x => finish t (.sample x) := by
  simp [phaseStep, hp, hc]

theorem phaseStep_g0 {raw : Bool} (hp : s.phase = .g0) (hc : s.cmd = some (.rdrange raw)) :
    phaseStep s = phaseRead s Config.regCtrl5 fun v t => finish t (rangePayload raw v) := by
  simp [phaseStep, hp, hc]

variable {u : AccelUnits}

theorem phaseStep_c0 (hp : s.phase = .c0) (hc : s.cmd = some (.rdaccel u)) :
    phaseStep s = phaseRead s Config.regXout0 fun v t => .next (t.latchLo v .c1) := by
  simp [phaseStep, hp, hc]

theorem phaseStep_c1 (hp : s.phase = .c1) (hc : s.cmd = some (.rdaccel u)) :
    phaseStep s =
      phaseRead s Config.regXout1 fun v t => withSample t v fun x => .next (t.latchS0 x .c2) := by
  simp [phaseStep, hp, hc]

theorem phaseStep_c2 (hp : s.phase = .c2) (hc : s.cmd = some (.rdaccel u)) :
    phaseStep s = phaseRead s Config.regYout0 fun v t => .next (t.latchLo v .c3) := by
  simp [phaseStep, hp, hc]

theorem phaseStep_c3 (hp : s.phase = .c3) (hc : s.cmd = some (.rdaccel u)) :
    phaseStep s =
      phaseRead s Config.regYout1 fun v t => withSample t v fun x => .next (t.latchS1 x .c4) := by
  simp [phaseStep, hp, hc]

theorem phaseStep_c4 (hp : s.phase = .c4) (hc : s.cmd = some (.rdaccel u)) :
    phaseStep s = phaseRead s Config.regZout0 fun v t => .next (t.latchLo v .c5) := by
  simp [phaseStep, hp, hc]

theorem phaseStep_c5 (hp : s.phase = .c5) (hc : s.cmd = some (.rdaccel u)) :
    phaseStep s =
      phaseRead s Config.regZout1 fun v t => withSample t v fun x => .next (t.latchS2 x .c6) := by
  simp [phaseStep, hp, hc]

theorem phaseStep_c6 (hp : s.phase = .c6) (hc : s.cmd = some (.rdaccel u)) :
    phaseStep s = phaseRead s Config.regCtrl5 fun v t => finishAccel (t.latchRb v) u := by
  simp [phaseStep, hp, hc]

/-- Phase C6 with every register it reads holding a value. -/
theorem finishAccel_held {t : State} {x y z : Sample16} {b : Byte} (h0 : t.s0 = some x)
    (h1 : t.s1 = some y) (h2 : t.s2 = some z) (hb : t.rb = some b) :
    finishAccel t u = finish t (accel x y z b u) := by
  simp [finishAccel, h0, h1, h2, hb]

theorem withSample_held {t : State} {low : Byte} (h : t.lo = some low) (high : Byte)
    (k : Sample16 → Out) : withSample t high k = k (unpack16 low high) := by
  simp [withSample, h]

end Rows

/-! ### Everything a row of the phase table can do -/

/-- What the success of a transaction makes of the state `u` that holds the transaction in its trace:
the sequencer moves on within the command, or the command finishes. -/
def Advances (u t : State) : Prop :=
  (∃ lo' s0' s1' s2' p', p' ≠ .idle ∧
    t = { u with lo := lo', s0 := s0', s1 := s1', s2 := s2', phase := p' }) ∨
  ∃ p, t = u.quiet.deliver (.ok p)

/-- Inversion of a row that answers a next state: the block waits, or a read fails, or a write fails,
or the write of INIT is acknowledged, or a read returns a byte and the block advances. -/
def RowEffect (s t : State) : Prop :=
  t = s ∨
  (∃ d r e rest, issued s = some (.read d r) ∧ s.reads = .fail e :: rest ∧
    t = ({ s with reads := rest }.record (.read d r (.fail e))).quiet.deliver (.err e)) ∨
  (∃ a e rest, s.phase = .i0 ∧ s.cmd = some (.init a) ∧ s.writes = .fail e :: rest ∧
    t = ({ s with writes := rest }.record (.write a 0x20 0x1F (.fail e))).quiet.deliver (.err e)) ∨
  (∃ a rest, s.phase = .i0 ∧ s.cmd = some (.init a) ∧ s.writes = .ack :: rest ∧
    t = (({ s with writes := rest }.record (.write a 0x20 0x1F .ack)).construct a).quiet.deliver
      (.ok .unit)) ∨
  (∃ d r v rest, issued s = some (.read d r) ∧ s.daddr = some d ∧ s.reads = .byte v :: rest ∧
    Advances ({ s with reads := rest }.record (.read d r (.byte v))) t)

/-- A read of a phase, by its three outcomes. -/
theorem rowEffect_of_phaseRead {s t : State} {r : Byte} {k : Byte → State → Out}
    (hi : ∀ d, s.daddr = some d → issued s = some (.read d r))
    (hk : ∀ d v rest, s.daddr = some d → s.reads = .byte v :: rest →
      k v ({ s with reads := rest }.record (.read d r (.byte v))) = .next t →
      Advances ({ s with reads := rest }.record (.read d r (.byte v))) t)
    (h : phaseRead s r k = .next t) : RowEffect s t := by
  rcases hd : s.daddr with _ | d
  · rw [phaseRead_none hd] at h
    cases h
  · rw [phaseRead_some hd] at h
    rcases busRead_cases s d r k with ⟨_, e⟩ | ⟨v, rest, hr, e⟩ | ⟨e', rest, hr, e⟩
    · rw [e] at h
      cases h
      exact .inl rfl
    · rw [e] at h
      exact .inr (.inr (.inr (.inr ⟨d, r, v, rest, hi d hd, hd, hr, hk d v rest hd hr h⟩)))
    · rw [e, transportError_eq] at h
      cases h
      exact .inr (.inl ⟨d, r, e', rest, hi d hd, hr, rfl⟩)

theorem advances_of_withSample {t u : State} {high : Byte} {k : Sample16 → Out}
    (hk : ∀ x, k x = .next t → Advances u t) (h : withSample u high k = .next t) :
    Advances u t := by
  unfold withSample at h
  rcases whenHeld_cases u.lo fun low => k (unpack16 low high) with ⟨low, _, e⟩ | ⟨_, e⟩
  · rw [e] at h
    exact hk _ h
  · rw [e] at h
    cases h

theorem advances_of_finishAccel {t u : State} {b : Byte} {a : AccelUnits}
    (h : finishAccel (u.latchRb b) a = .next t) : Advances u t := by
  unfold finishAccel at h
  rcases h0 : u.s0 with _ | x <;> rcases h1 : u.s1 with _ | y <;> rcases h2 : u.s2 with _ | z <;>
    simp only [State.latchRb_s0, State.latchRb_s1, State.latchRb_s2, State.latchRb_rb, h0, h1, h2,
      whenHeld_none, whenHeld_some, reduceCtorEq] at h
  rw [finish_eq] at h
  cases h
  exact .inr ⟨_, rfl⟩

/-- Every row that answers a next state has one of these effects. -/
theorem phaseStep_effect {s t : State} (h : phaseStep s = .next t) : RowEffect s t := by
  unfold phaseStep at h
  split at h
  case h_1 =>
    cases h
    exact .inl rfl
  case h_2 a hp hc =>
    rcases busWrite_cases s a Config.regCtrl4 Config.initValue
      (fun t => finish (t.construct a) .unit) with ⟨_, e⟩ | ⟨rest, hw, e⟩ | ⟨e', rest, hw, e⟩
    · rw [e] at h
      cases h
      exact .inl rfl
    · rw [e, finish_eq] at h
      cases h
      exact .inr (.inr (.inr (.inl ⟨a, rest, hp, hc, hw, rfl⟩)))
    · rw [e, transportError_eq] at h
      cases h
      exact .inr (.inr (.inl ⟨a, e', rest, hp, hc, hw, rfl⟩))
  case h_4 base hp hc =>
    rcases hh : highOffset base with _ | base1
    · simp [phaseReadHigh, hh] at h
    · simp only [phaseReadHigh, hh] at h
      refine rowEffect_of_phaseRead (fun d hd => by simp [issued, hp, hc, hd, hh]) ?_ h
      intro d v rest _ _ hk
      refine advances_of_withSample (fun x hx => ?_) hk
      rw [finish_eq] at hx
      cases hx
      exact .inr ⟨_, rfl⟩
  case h_5 raw hp hc =>
    refine rowEffect_of_phaseRead (fun d hd => by simp [issued, hp, hc, hd]) ?_ h
    intro d v rest _ _ hk
    rw [finish_eq] at hk
    cases hk
    exact .inr ⟨_, rfl⟩
  case h_12 u hp hc =>
    refine rowEffect_of_phaseRead (fun d hd => by simp [issued, hp, hc, hd]) ?_ h
    intro d v rest _ _ hk
    exact advances_of_finishAccel hk
  case h_13 => cases h
  case h_7 u hp hc | h_9 u hp hc | h_11 u hp hc =>
    refine rowEffect_of_phaseRead (fun d hd => by simp [issued, hp, hc, hd]) ?_ h
    intro d v rest _ _ hk
    refine advances_of_withSample (fun x hx => ?_) hk
    cases hx
    exact .inl ⟨_, _, _, _, _, by decide, rfl⟩
  all_goals
    rename_i hp hc
    refine rowEffect_of_phaseRead (fun d hd => by simp [issued, hp, hc, hd]) ?_ h
    intro d v rest _ _ hk
    cases hk
    exact .inl ⟨_, _, _, _, _, by decide, rfl⟩

/-! ### Several rows -/

/-- A row that moves the block is the first of the rows that follow. -/
theorem runPhases_succ {s t : State} (h : phaseStep s = .next t) (n : Nat) :
    runPhases (n + 1) s = runPhases n t := by
  simp [runPhases, h]

/-- A block that a row leaves where it is stays there for any number of rows (R103). -/
theorem runPhases_fixed {t : State} (h : phaseStep t = .next t) (n : Nat) :
    runPhases n t = .next t := by
  induction n with
  | zero => rfl
  | succ n ih => rw [runPhases_succ h, ih]

/-- A command that has ended stays ended. -/
theorem runPhases_ended (t : State) (r : Response) (n : Nat) :
    runPhases n (t.quiet.deliver r) = .next (t.quiet.deliver r) :=
  runPhases_fixed (phaseStep_idle rfl rfl) n

end Sys2Proof.Machine
end

