-- ==== Sys2Proof/Tests/Slice0.lean ====
section
/-! SUPPORT. Tests of single operations and single steps, and the witnesses of the statements'
hypotheses. Expected values come from spec/95_test_vectors.md, spec/30_encoding.md (R51, R54, R56,
R58, R59) and spec/60_exceptions.md (R102); each test names its row. -/

namespace Sys2Proof.Tests

open Sys2Proof Sys2Proof.Machine

/-! ### Small states and what is looked at -/

/-- The device address of the test vectors. -/
def dev0 : DeviceAddress := ⟨1⟩

/-- A second one. -/
def dev1 : DeviceAddress := ⟨2⟩

/-- A transport error token. -/
def tok : TErr := ⟨7⟩

/-- A constructed block in `IDLE` with the bus script `reads`. -/
def built (reads : List ReadReply) : State :=
  { State.reset with daddr := some dev0, cmdDaddr := dev1, reads := reads, turn := .sequencer }

/-- A block after reset with `dev0` on `cmd_daddr` and the bus script `writes`. -/
def fresh (writes : List WriteReply) : State :=
  { State.reset with cmdDaddr := dev0, writes := writes, turn := .sequencer }

/-- A block stuck in phase A1, as in B22. -/
def stuckA1 : State :=
  { built [] with phase := .a1, cmd := some (.rdaxis 0x28), lo := some 0x00 }

/-- A block waiting for the write of INIT. -/
def stuckI0 : State := { fresh [] with phase := .i0, cmd := some (.init dev0) }

/-- The next state of an outcome. -/
def after : Out → Option State
  | .next t => some t
  | .fault _ => none
  | .refused _ => none

/-- The refusal of an outcome. -/
def refusal : Out → Option Refusal
  | .next _ => none
  | .fault _ => none
  | .refused r => some r

/-- What went out in a run from a state with nothing gone out: the bus trace and the responses. -/
def out (o : Out) : Option (List Transaction × List Response) :=
  (after o).map fun t => (t.trace, t.rsp)

/-- A read of a register of `dev0` that returned a byte. -/
def got (r v : Byte) : Transaction := .read dev0 r (.byte v)

/-- `s` with an offer at the command port, and the sequencer's turn. -/
def offered (s : State) (w : CommandWord) : State :=
  { s with port := some ⟨w, dev0⟩, turn := .sequencer }

/-- The command a word decodes to. -/
def decoded (w : CommandWord) : Option Instr :=
  match decode w with
  | .ok i => some i
  | .error _ => none

/-! ### Well-formed commands (R102 case 2; X8 against B6) -/

theorem test_wellFormed_rdaxis_refuses : (Instr.rdaxis 0xFF).wellFormed = false := by decide

theorem test_wellFormed_rdaxis_accepts : (Instr.rdaxis 0xFE).wellFormed = true := by decide

/-! ### Decoding words written out bit by bit (R47, R48, R58, R59) -/

theorem test_decode_init : decoded 0b0001_0000_0000_0000_0000_0000 = some .init := by decide

theorem test_decode_rdaxis : decoded 0b0010_0000_0000_0000_0010_1000 = some (.rdaxis 0x28) := by
  decide

theorem test_decode_rdrangeDec : decoded 0b0011_0000_0000_0000_0000_0000 = some .rdrangeDec := by
  decide

theorem test_decode_rdrangeRaw : decoded 0b0011_0001_0000_0000_0000_0000 = some .rdrangeRaw := by
  decide

theorem test_decode_rdaccelG : decoded 0b0100_0000_0000_0000_0000_0000 = some .rdaccelG := by
  decide

theorem test_decode_rdaccelMs2 : decoded 0b0100_0001_0000_0000_0000_0000 = some .rdaccelMs2 := by
  decide

theorem test_decode_unpack :
    decoded 0b1000_0000_0001_0010_0011_0100 = some (.unpack 0x34 0x12) := by decide

theorem test_decode_decrange : decoded 0b1001_0000_0000_0000_0001_1000 = some (.decrange 0x18) := by
  decide

theorem test_decode_scale : decoded 0b1010_0000_0000_0000_1111_1111 = some (.scale 0xFF) := by
  decide

/-- X1 to X7: the reserved words of the test vectors select no row. -/
theorem test_decode_reserved :
    [0x000000, 0x500000, 0x320000, 0x400001, 0x200128, 0x900100, 0x110000].map decoded =
      List.replicate 7 none := by decide

/-- RDAXIS 0xFF has a row (R52), and a 25-bit number is no command word. -/
theorem test_decodeTableWord :
    decodeTableWord 24 0x2000FF = some (.rdaxis 0xFF) ∧ decodeTableWord 25 0x1000000 = none := by
  decide

/-! ### The datapath (spec/95_test_vectors.md section 2) -/

/-- Section 2.1: the sign is bit 7 of the high byte, and the order of the operands matters. -/
theorem test_unpack16 :
    (unpack16 0x80 0x00).toInt = 128 ∧ (unpack16 0x12 0x34).toInt = 13330 ∧
      (unpack16 0xFF 0x7F).toInt = 32767 ∧ (unpack16 0x7F 0x80).toInt = -32641 := by decide

/-- Section 2.2: neighbours of the known bytes, and bytes that share bits 5 to 3 with one. -/
theorem test_rangeDecode :
    [0x00, 0x08, 0x10, 0x18, 0x20, 0x07, 0x09, 0x28, 0x88].map (fun b => rangeCode (rangeDecode b)) =
      [2, 4, 6, 8, 16, -1, -1, -1, -1] := by decide

/-- Section 2.3 at the ±6g modifier, where the division is rounded. -/
theorem test_toG_sixG :
    toG 0x4000 0x10 = 0x40080000003EEA20 ∧ toG 0x1555 0x10 = 0x3FEFFF800053E186 := by
  decide +kernel

/-- Section 2.3: -12345 at ±8g, and 100 with the fallback. -/
theorem test_toMs2 :
    toMs2 0xCFC7 0x18 = 0xC03D8E71820C49BA ∧ toMs2 0x0064 0x09 = 0x3FAEA551EB851EB8 := by
  decide +kernel

/-- R51, R54: the word of `Decoded(Unknown)` is kind 3 with data 0xFF. -/
theorem test_response_word :
    (Response.ok (.decoded .unknown)).word 0 = 0x3#4 ++ 0xFF#192 := by decide

/-! ### The commands, two tests each (spec/95_test_vectors.md section 3) -/

/-- B1. -/
theorem test_init_ack :
    (after (exec .init (fresh [.ack]))).map (fun t => (t.daddr, t.trace, t.rsp)) =
      some (some dev0, [.write dev0 0x20 0x1F .ack], [.ok .unit]) := by decide

/-- B2. -/
theorem test_init_fails :
    (after (exec .init (fresh [.fail tok]))).map (fun t => (t.daddr, t.rsp)) =
      some (none, [.err tok]) := by decide

/-- B6: the highest legal base. -/
theorem test_rdaxis_top :
    out (exec (.rdaxis 0xFE) (built [.byte 0x00, .byte 0x00])) =
      some ([got 0xFE 0x00, got 0xFF 0x00], [.ok (.sample 0x0000)]) := by decide

/-- B22: the second read never completes. -/
theorem test_rdaxis_stuck : after (exec (.rdaxis 0x28) (built [.byte 0x00])) =
    some { stuckA1 with trace := [got 0x28 0x00] } := by decide

/-- B10. -/
theorem test_rdrangeDec :
    out (exec .rdrangeDec (built [.byte 0x18])) = some ([got 0x24 0x18], [.ok (.decoded .r8g)]) := by
  decide

/-- B11. -/
theorem test_rdrangeDec_unknown :
    out (exec .rdrangeDec (built [.byte 0x19])) =
      some ([got 0x24 0x19], [.ok (.decoded .unknown)]) := by decide

/-- B12. -/
theorem test_rdrangeRaw :
    out (exec .rdrangeRaw (built [.byte 0x5A])) = some ([got 0x24 0x5A], [.ok (.raw 0x5A)]) := by
  decide

/-- B13. -/
theorem test_rdrangeRaw_fails :
    out (exec .rdrangeRaw (built [.fail tok])) =
      some ([.read dev0 0x24 (.fail tok)], [.err tok]) := by decide

/-- B18: ±6g. -/
theorem test_rdaccelG_sixG :
    ((after (exec .rdaccelG (built
      ([0x00, 0x40, 0x55, 0x15, 0x00, 0x80, 0x10].map .byte)))).map (·.rsp)) =
      some [.ok (.accel 0x40080000003EEA20 0x3FEFFF800053E186 0xC0180000003EEA20)] := by
  decide +kernel

/-- B19: the fifth read fails; 0x2D and 0x24 are not read. -/
theorem test_rdaccelG_fails :
    out (exec .rdaccelG (built ([0x00, 0x40, 0x00, 0xC0].map .byte ++ [.fail tok]))) =
      some ([got 0x28 0x00, got 0x29 0x40, got 0x2A 0x00, got 0x2B 0xC0,
        .read dev0 0x2C (.fail tok)], [.err tok]) := by decide +kernel

/-- B15. -/
theorem test_rdaccelMs2 :
    ((after (exec .rdaccelMs2 (built
      ([0x00, 0x40, 0x00, 0xC0, 0x00, 0x00, 0x00].map .byte)))).map (·.rsp)) =
      some [.ok (.accel 0x40239D013A92A305 0xC0239D013A92A305 0x0000000000000000)] := by
  decide +kernel

/-- B20: the range read fails. -/
theorem test_rdaccelMs2_fails :
    ((after (exec .rdaccelMs2 (built
      ([0x00, 0x40, 0x00, 0xC0, 0x00, 0x00].map .byte ++ [.fail tok])))).map (·.rsp)) =
      some [.err tok] := by decide +kernel

/-- P4 step 1, on an unconstructed block. -/
theorem test_unpack : out (exec (.unpack 0xC7 0xCF) State.reset) =
    some ([], [.ok (.sample 0xCFC7)]) := by decide

/-- P4 step 2. -/
theorem test_decrange : out (exec (.decrange 0x18) State.reset) =
    some ([], [.ok (.decoded .r8g)]) := by decide

/-- R70: the ±6g modifier; P4 step 4: the fallback. -/
theorem test_scale :
    out (exec (.scale 0x10) State.reset) = some ([], [.ok (.modifier 0x40B55555551D68C7)]) ∧
      out (exec (.scale 0x19) State.reset) = some ([], [.ok (.modifier 0x40D0000000000000)]) := by
  decide +kernel

/-- X8 to X11: refused by value and by state. -/
theorem test_refused :
    [refusal (exec (.rdaxis 0xFF) (built [])), refusal (exec (.rdaxis 0x28) State.reset),
      refusal (exec .rdrangeDec State.reset), refusal (exec .rdrangeRaw State.reset),
      refusal (exec .rdaccelG State.reset), refusal (exec .rdaccelMs2 State.reset),
      refusal (exec .init (built []))] =
      [some .offsetOutOfRange, some .unconstructed, some .unconstructed, some .unconstructed,
        some .unconstructed, some .unconstructed, some .alreadyConstructed] := by decide

/-! ### The step -/

/-- X12, and its nearest accepted input: `rst` in `IDLE`. -/
theorem test_step_rst :
    refusal (step { stuckA1 with rst := true }) = some .resetWhileBusy ∧
      (after (step { built [] with rst := true })).map (fun t => (t.daddr, t.phase, t.rst)) =
        some (none, .idle, false) := by
  decide

/-- The stuck block of B22 goes on when its read is answered (R81, phase A1), and a command offered
meanwhile stays at the port (R46). -/
theorem test_step_resumes :
    (after (step (offered { stuckA1 with reads := [.byte 0x80] } 0x808000))).map
      (fun t => (t.phase, t.rsp, t.port)) =
      some (.idle, [.ok (.sample 0x8000)], some ⟨0x808000, dev0⟩) := by decide

/-- An offer in `IDLE` is taken, its address with it (R49), and the write waits for its answer (R81). -/
theorem test_step_accepts :
    (after (step (offered State.reset 0x100000))).map (fun t => (t.port, t.phase, issued t)) =
      some (none, .i0, some (.write dev0 0x20 0x1F)) := by decide

/-- The host puts an offer at an empty port and holds it there (R119); the bus answers the read of B22
once (R25). -/
theorem test_agents :
    (hostAct (.offer ⟨0x200028, dev1⟩) (built [])).port = some ⟨0x200028, dev1⟩ ∧
      (hostAct (.offer ⟨0x200028, dev1⟩) (offered (built []) 0x808000)).port =
        some ⟨0x808000, dev0⟩ ∧
      (busAct (some (.byte 0x80)) (some .ack) stuckA1).reads = [.byte 0x80] ∧
      (busAct (some (.byte 0x80)) (some .ack) stuckA1).writes = [] := by decide

/-- The word placed for the next step is the one it runs. -/
theorem test_withFetchWord :
    (after (step (State.reset.withFetchWord 24 0x900018))).map (·.rsp) =
      some [.ok (.decoded .r8g)] := by decide

/-! ### The assembler (R58, R59) -/

/-- `UNPACK 0x00, 0x80` with a comment, and a decimal operand (R5). -/
theorem test_assembleLine :
    assembleLine [] ['U', 'N', 'P', 'A', 'C', 'K', ' ', '0', 'x', '0', '0', ',', ' ', '0', 'x', '8',
      '0', ' ', ';', 'x'] = .command (.unpack 0x00 0x80, none) ∧
    assembleLine [] ['S', 'C', 'A', 'L', 'E', ' ', '2', '5', '5'] = .command (.scale 0xFF, none) := by
  decide

/-- `INIT dev0` offers 0x100000 with `dev0` on `cmd_daddr`; an unknown name, an operand of 256 and an
unknown mnemonic are no lines of R58. -/
theorem test_assemble_init :
    assemble [(['d', 'e', 'v', '0'], dev0)] dev1 [['I', 'N', 'I', 'T', ' ', 'd', 'e', 'v', '0']] =
      some [⟨0x100000, dev0⟩] ∧
    assembleLine [] ['I', 'N', 'I', 'T', ' ', 'd', 'e', 'v', '0'] = .notSyntax ∧
    assembleLine [] ['S', 'C', 'A', 'L', 'E', ' ', '2', '5', '6'] = .notSyntax ∧
    assembleLine [] ['R', 'D', 'W'] = .notSyntax := by decide

/-! ### Witnesses: states and operands that meet the hypotheses of the statements

Each theorem says of which statements it is the witness; where the clauses of a statement have
hypotheses of their own, it meets those of each. -/

/-- EncodeDecodeAgree, DecodesExactlyTheRows: a word that decodes, at the ends of its operands. -/
theorem witness_EncodeDecodeAgree :
    decode 0x80FFFF = .ok (.unpack 0xFF 0xFF) ∧ decode 0x2000FF = .ok (.rdaxis 0xFF) := by decide

/-- RowsDisjoint: a word that selects a row. -/
theorem witness_RowsDisjoint :
    ∃ r ∈ commandTable, r.selects 0x2000FF = true := by decide

/-- AssemblerReadsBack. -/
theorem witness_AssemblerReadsBack :
    plainOperand ['d', '0'] = true ∧ [(['d', '0'], dev0)].lookup ['d', '0'] = some dev0 := by decide

/-- PseudoInstructionsExpand: a line's parts that read as a command, by either kind of mnemonic. -/
theorem witness_PseudoInstructionsExpand :
    assembleParts [] ['R', 'D', 'Z'] [] = some (.rdaxis 0x2C, none) ∧
      assembleParts [] (mnemonicText .rdaccelMs2) [] = some (.rdaccelMs2, none) := by decide

/-- StepRunsDecodedCommand. -/
theorem witness_StepRunsDecodedCommand :
    let s := offered State.reset 0x200028
    s.turn = .sequencer ∧ s.rst = false ∧ s.phase = .idle ∧ s.port = some ⟨0x200028, dev0⟩ ∧
      decode 0x200028 = .ok (.rdaxis 0x28) := by decide

/-- AgentsTakeTurns: each agent's turn, a response not yet taken, an empty and a taken port, and a read,
a write and no transaction outstanding. -/
theorem witness_AgentsTakeTurns :
    State.reset.turn = .host ∧ ({ built [] with turn := .bus } : State).turn = .bus ∧
      (built []).turn = .sequencer ∧ (after (step (built []))).isSome = true ∧
      ({ built [] with rsp := [.err tok] } : State).taken < 1 ∧ (built []).port = none ∧
      (offered (built []) 0x808000).port = some ⟨0x808000, dev0⟩ ∧
      issued stuckA1 = some (.read dev0 0x29) ∧ stuckA1.reads = [] ∧
      issued stuckI0 = some (.write dev0 0x20 0x1F) ∧ stuckI0.writes = [] ∧
      (built []).unanswered = false := by decide

/-- OnePhasePerStep: the acceptance of a bus command, and a step that completes a transaction. -/
theorem witness_OnePhasePerStep :
    let s := offered (built []) 0x2000FE
    s.turn = .sequencer ∧ s.rst = false ∧ s.phase = .idle ∧ s.port = some ⟨0x2000FE, dev0⟩ ∧
      decode 0x2000FE = .ok (.rdaxis 0xFE) ∧
      latchedCommand dev0 (.rdaxis 0xFE) = some (.rdaxis 0xFE) ∧
      refusedCase (.rdaxis 0xFE) s = none ∧
      (after (step { stuckA1 with reads := [.byte 0x80] })).map (·.trace) = some [got 0x29 0x80] := by
  decide

/-- ReservedWordsRefused: a word of each kind of R52 at the port, and `RDAXIS 0xFF` on a constructed block
and on an unconstructed one. -/
theorem witness_ReservedWordsRefused :
    (∀ r ∈ commandTable, r.selects 0xF00000 = false) ∧
      (∀ r ∈ commandTable, r.selects 0x110000 = false) ∧
      (∀ r ∈ commandTable, r.selects 0x420000 = false) ∧
      (∀ r ∈ commandTable, r.selects 0xA0FF18 = false) ∧
      (∀ r ∈ commandTable, r.selects 0x3000FF = false) ∧
      (offered State.reset 0x3000FF).turn = .sequencer ∧
      (offered State.reset 0x3000FF).rst = false ∧ (offered State.reset 0x3000FF).phase = .idle ∧
      (offered State.reset 0x3000FF).port = some ⟨0x3000FF, dev0⟩ ∧
      (offered State.reset 0x2000FF).turn = .sequencer ∧
      (offered State.reset 0x2000FF).rst = false ∧ (offered State.reset 0x2000FF).phase = .idle ∧
      (offered State.reset 0x2000FF).port = some ⟨0x2000FF, dev0⟩ ∧
      (offered State.reset 0x2000FF).daddr = none ∧
      (offered (built []) 0x2000FF).turn = .sequencer ∧
      (offered (built []) 0x2000FF).rst = false ∧ (offered (built []) 0x2000FF).phase = .idle ∧
      (offered (built []) 0x2000FF).port = some ⟨0x2000FF, dev0⟩ ∧
      (offered (built []) 0x2000FF).daddr = some dev0 := by decide

/-- ReservedWordsRefused, first clause: a word of each alternative of R52. -/
theorem witness_reservedByR52 :
    reservedByR52 0xF00000 ∧ reservedByR52 0x110000 ∧ reservedByR52 0x420000 ∧
      reservedByR52 0xA0FF18 ∧ reservedByR52 0x3000FF :=
  ⟨.inl (by decide), .inr (.inl (by decide)), .inr (.inr (.inl (by decide))),
    .inr (.inr (.inr (.inl (by decide)))), .inr (.inr (.inr (.inr (by decide))))⟩

/-- No operand of UNPACK makes its word reserved. -/
theorem witness_not_reservedByR52 : ¬ reservedByR52 0x80FFFF := by
  unfold reservedByR52
  decide

/-- BusyBlockAcceptsNothing: a command in progress, and a next state of the sequencer's step and of the
host's. -/
theorem witness_BusyBlockAcceptsNothing :
    (offered stuckA1 0x808000).turn = .sequencer ∧ (offered stuckA1 0x808000).rst = false ∧
      (after (step { stuckA1 with turn := .host })).isSome = true ∧ (offered stuckA1 0x808000).phase ≠ .idle ∧
      (after (step (offered stuckA1 0x808000))).isSome = true := by decide

/-- RstInIdleResets, RstLeavesPorts. -/
theorem witness_RstInIdleResets :
    ({ built [] with rst := true } : State).turn = .sequencer ∧
      ({ built [] with rst := true } : State).rst = true ∧
      ({ built [] with rst := true } : State).phase = .idle ∧
      (after (step { built [] with rst := true })).isSome = true := by decide

/-- RstWhileBusyRefused; case 5 of RefusedExactlyAsListed and RefusedInTheListedCases. -/
theorem witness_RstWhileBusyRefused :
    ({ stuckI0 with rst := true } : State).turn = .sequencer ∧
      ({ stuckI0 with rst := true } : State).rst = true ∧
      ({ stuckI0 with rst := true } : State).phase ≠ .idle ∧
      ({ stuckI0 with rst := true } : State).Inv := by decide

/-- ToGExactOffSixG: each of its divisors. -/
theorem witness_ToGExactOffSixG :
    (0x00 : Byte) ≠ 0x10 ∧ (0x08 : Byte) ≠ 0x10 ∧ (0x18 : Byte) ≠ 0x10 ∧ (0x20 : Byte) ≠ 0x10 ∧
      (0xFF : Byte) ≠ 0x10 := by decide

/-- ConversionIsOdd: the ends of 1 to 32767. -/
theorem witness_ConversionIsOdd :
    (0x0001 : Sample16) ≠ 0 ∧ (0x0001 : Sample16) ≠ 0x8000 ∧ (0x7FFF : Sample16) ≠ 0 ∧
      (0x7FFF : Sample16) ≠ 0x8000 ∧ (0x8001 : Sample16) ≠ 0 ∧ (0x8001 : Sample16) ≠ 0x8000 := by
  decide

/-- UnpackCommandResponds, DecrangeCommandResponds, ScaleCommandResponds: an unconstructed and a
constructed block, the replies of their last clauses, and a byte SCALE maps to the fallback. -/
theorem witness_pure_command :
    State.reset.phase = .idle ∧ (built []).phase = .idle ∧ (built []).daddr = some dev0 ∧
      (0xFE : Byte) ≠ 0xFF ∧ (built [.byte 0x00, .byte 0x80]).reads = .byte 0x00 :: .byte 0x80 :: [] ∧
      (built [.byte 0x18]).reads = .byte 0x18 :: [] ∧
      (0x00 : Byte) ∉ [(0x08 : Byte), 0x10, 0x18, 0x20] := by decide

/-- InitConstructs: the write succeeds, the write fails, and a constructed block. -/
theorem witness_InitConstructs :
    (fresh [.ack]).phase = .idle ∧ (fresh [.ack]).daddr = none ∧
      (fresh [.ack]).writes = .ack :: [] ∧ (fresh [.fail tok]).writes = .fail tok :: [] ∧
      (built []).phase = .idle ∧ (built []).daddr = some dev0 := by decide

/-- RdaxisResponds: the ends of the legal bases, two reads, a failure of either, and an unconstructed
block. -/
theorem witness_RdaxisResponds :
    (0x00 : Byte) ≠ 0xFF ∧ (0xFE : Byte) ≠ 0xFF ∧
      (built [.byte 0xFF, .byte 0x7F]).phase = .idle ∧
      (built [.byte 0xFF, .byte 0x7F]).daddr = some dev0 ∧
      (built [.byte 0xFF, .byte 0x7F]).reads = .byte 0xFF :: .byte 0x7F :: [] ∧
      (built [.fail tok]).reads = .fail tok :: [] ∧
      (built [.byte 0x34, .fail tok]).reads = .byte 0x34 :: .fail tok :: [] ∧
      State.reset.phase = .idle ∧ State.reset.daddr = none := by decide

/-- RdrangeDecResponds, RdrangeRawResponds. -/
theorem witness_RdrangeResponds :
    (built [.byte 0x5A]).phase = .idle ∧ (built [.byte 0x5A]).daddr = some dev0 ∧
      (built [.byte 0x5A]).reads = .byte 0x5A :: [] ∧
      (built [.fail tok]).reads = .fail tok :: [] := by decide

/-- RdaccelGResponds, RdaccelMs2Responds: seven bytes, and a failure of the first and of the last
read. -/
theorem witness_RdaccelResponds :
    (built ([0x00, 0x40, 0x00, 0xC0, 0x00, 0x00, 0x00].map .byte)).reads =
        [0x00, 0x40, 0x00, 0xC0, 0x00, 0x00, 0x00].map .byte ++ [] ∧
      (built [.fail tok]).reads = ([] : List Byte).map .byte ++ .fail tok :: [] ∧
      ([0x28, 0x29, 0x2A, 0x2B, 0x2C, 0x2D, 0x24] : List Byte)[0]? = some 0x28 ∧
      (built ([1, 2, 3, 4, 5, 6].map .byte ++ [.fail tok])).reads =
        ([1, 2, 3, 4, 5, 6] : List Byte).map .byte ++ .fail tok :: [] ∧
      ([0x28, 0x29, 0x2A, 0x2B, 0x2C, 0x2D, 0x24] : List Byte)[6]? = some 0x24 := by
  decide +kernel

/-- FailedTransactionEndsCommand: the second read of RDAXIS fails, the write of INIT fails, a read and
the write of a command in progress fail. -/
theorem witness_FailedTransactionEndsCommand :
    (Instr.rdaxis 0xFE).wellFormed = true ∧ (readOffsets (.rdaxis 0xFE))[[(0x34 : Byte)].length]? =
        some 0xFF ∧
      (built [.byte 0x34, .fail tok]).reads = [(0x34 : Byte)].map .byte ++ .fail tok :: [] ∧
      (fresh [.fail tok]).writes = .fail tok :: [] ∧
      stuckA1.turn = .sequencer ∧ stuckI0.turn = .sequencer ∧ stuckA1.rst = false ∧
      issued { stuckA1 with reads := [.fail tok] } = some (.read dev0 0x29) ∧
      issued { stuckI0 with writes := [.fail tok] } = some (.write dev0 0x20 0x1F) := by decide

/-- UnansweredTransactionHangs: before the first and before the last read, the write, and a command in
progress. -/
theorem witness_UnansweredTransactionHangs :
    (built []).phase = .idle ∧ (built []).daddr = some dev0 ∧ Instr.rdrangeRaw.wellFormed = true ∧
      (readOffsets .rdrangeRaw)[0]? = some 0x24 ∧ (built []).reads = ([] : List Byte).map .byte ∧
      (readOffsets .rdaccelG)[6]? = some 0x24 ∧
      (built ([1, 2, 3, 4, 5, 6].map .byte)).reads = ([1, 2, 3, 4, 5, 6] : List Byte).map .byte ∧
      (fresh []).phase = .idle ∧ (fresh []).daddr = none ∧ (fresh []).writes = [] ∧
      stuckA1.unanswered = true ∧ stuckI0.unanswered = true ∧ stuckA1.turn = .sequencer ∧
      stuckA1.rst = false ∧ (after (step { stuckA1 with turn := .host })).isSome = true := by
  decide

/-- TransactionsAsListed: a command that ends with Ok, one that ends with Err, one that waits, an INIT
that ends, a pure command. -/
theorem witness_TransactionsAsListed :
    (after (exec .rdrangeRaw (built [.byte 0x5A]))).map (·.rsp) = some [.ok (.raw 0x5A)] ∧
      (after (exec .rdrangeRaw (built [.fail tok]))).map (·.rsp) = some [.err tok] ∧
      (after (exec .rdrangeRaw (built []))).map (·.rsp) = some [] ∧
      (after (exec .init (fresh [.ack]))).map (·.phase) = some .idle ∧
      isPure (.scale 0x00) = true ∧
      (after (exec (.decrange 0x21) State.reset)).isSome = true := by decide

/-- ErrorOnlyFromFailedTransaction: a step that ends with Err; its other clauses have the premises of the
last two of FailedTransactionEndsCommand. -/
theorem witness_ErrorOnlyFromFailedTransaction :
    out (step { stuckA1 with reads := [.fail tok] }) =
      some ([.read dev0 0x29 (.fail tok)], [.err tok]) := by decide

/-- BigStepAgreesWithPhaseTable: a command of each kind that is in progress at some time. -/
theorem witness_BigStepAgreesWithPhaseTable :
    (built []).phase = .idle ∧ latchedCommand dev1 (.rdaxis 0xFE) = some (.rdaxis 0xFE) ∧
      refusedCase (.rdaxis 0xFE) (built []) = none ∧
      latchedCommand dev0 .init = some (.init dev0) ∧ refusedCase .init (fresh []) = none ∧
      refusedCase .rdaccelMs2 (built []) = none ∧ refusedCase .rdrangeRaw (built []) = none := by
  decide

/-- LateAnswersEndTheSame: a command that waits for a read, one that waits for the write, and replies
that end with a failure. -/
theorem witness_LateAnswersEndTheSame :
    (built []).phase = .idle ∧ (built []).reads = [] ∧ (fresh []).writes = [] ∧
      (after (exec (.rdaxis 0x28) (built []))).isSome = true ∧
      [ReadReply.byte 0x34, .fail tok].length ≤ (readOffsets (.rdaxis 0x28)).length ∧
      [ReadReply.byte 0x34, .fail tok].dropLast.all ReadReply.isByte = true ∧
      (after (exec (.rdaxis 0x28) (built [.byte 0x00]))).map (·.phase) = some .a1 ∧
      (after (exec .init (fresh []))).map (·.phase) = some .i0 := by decide

/-- RefusedExactlyAsListed, RefusedInTheListedCases: the invariants, and a refusal of each kind but
case 5. -/
theorem witness_RefusedExactlyAsListed :
    [offered State.reset 0x000000, offered (built []) 0x2000FF, offered State.reset 0x310000,
      offered (built []) 0x100000].map (fun s => (decide s.Inv, refusal (step s))) =
      [(true, some (.reservedWord .reservedOpcode)), (true, some .offsetOutOfRange),
        (true, some .unconstructed), (true, some .alreadyConstructed)] := by decide

/-- UnrefusedCommandsRun: a command of each kind that is not refused. -/
theorem witness_UnrefusedCommandsRun :
    State.reset.phase = .idle ∧ refusedCase .init State.reset = none ∧
      refusedCase (.unpack 0xFF 0xFF) State.reset = none ∧ (built []).phase = .idle ∧
      refusedCase (.rdaxis 0x00) (built []) = none ∧ refusedCase .rdaccelG (built []) = none := by
  decide

/-- StepKeepsInvariants, InvariantsExcludeFaults: the invariants hold at reset, in `IDLE`, in the middle
of a command and at INIT's write, and a step goes on from each. -/
theorem witness_StepKeepsInvariants :
    ∀ s ∈ [State.reset, offered (built []) 0x300000, { stuckA1 with reads := [.byte 0x80] },
      { stuckI0 with writes := [.ack] },
      { built [.byte 0x00] with
        phase := .c4, cmd := some (.rdaccel .g), lo := some 1, s0 := some 2, s1 := some 3 }],
      s.Inv ∧ s.PortsFit ∧ (after (step s)).isSome = true := by decide

/-- EndedCommandLeavesNothing: a command that ends, from a clean block. -/
theorem witness_EndedCommandLeavesNothing :
    (built [.fail tok]).IdleClean ∧
      (after (exec .rdrangeDec (built [.fail tok]))).map (·.phase) = some .idle := by decide

/-- DaddrWrittenByInitOnly: a step from a constructed block. -/
theorem witness_DaddrWrittenByInitOnly :
    stuckA1.Inv ∧ stuckA1.rst = false ∧ stuckA1.daddr = some dev0 ∧
      (after (step stuckA1)).map (·.daddr) = some (some dev0) := by decide

/-- DaddrWrittenByInitOnly: the end of INIT. -/
theorem witness_daddr_set :
    let s := { stuckI0 with writes := [.ack] }
    s.Inv ∧ s.rst = false ∧ s.daddr = none ∧
      (after (step s)).map (·.daddr) = some (some dev0) := by decide

/-- ConstructedImpliesWritten. -/
theorem witness_ConstructedImpliesWritten :
    ({ built [] with trace := [.write dev0 0x20 0x1F .ack] } : State).ConstructedByWrite := by decide

/-- OnlyConfigWrites, ReadsGoToDaddr: a step that adds a transaction. -/
theorem witness_ReadsGoToDaddr :
    ({ stuckA1 with reads := [.byte 0x18] } : State).Inv ∧ stuckA1.daddr = some dev0 ∧
      (after (step { stuckA1 with reads := [.byte 0x18] })).map (·.trace) =
        some [got 0x29 0x18] := by decide

/-- ResponseIsStateless: two states that agree in `daddr`, `cmd_daddr` and the replies only. -/
theorem witness_ResponseIsStateless :
    let s := built [.byte 0x5A]
    let t := { built [.byte 0x5A] with rsp := [.err tok], trace := [got 0x28 0x34], lo := some 0x34 }
    s.phase = .idle ∧ t.phase = .idle ∧ t.daddr = s.daddr ∧ t.cmdDaddr = s.cmdDaddr ∧
      t.reads = s.reads ∧ t.writes = s.writes ∧ (after (exec .rdrangeRaw s)).isSome = true := by
  decide

/-- CmdDaddrOnlyForInit. -/
theorem witness_CmdDaddrOnlyForInit :
    let s := offered State.reset 0x100000
    s.turn = .sequencer ∧ s.rst = false ∧ s.phase = .idle ∧ s.daddr = none ∧
      s.port = some ⟨0x100000, dev0⟩ ∧ decode 0x100000 = .ok .init ∧
      (after (exec .rdrangeRaw (built [.byte 0x5A]))).isSome = true := by decide

/-- OneResponseOfTheRightKind: a command that ends and one that waits. -/
theorem witness_OneResponseOfTheRightKind :
    (after (exec (.unpack 0x00 0x80) State.reset)).map (·.phase) = some .idle ∧
      (after (exec .rdrangeDec (built []))).map (·.phase) = some .g0 ∧
      isPure (.rdaxis 0xFE) = false ∧ (Instr.rdaxis 0xFE).wellFormed = true := by decide

/-- CommandFrame: a reading command, INIT, and a pure command. -/
theorem witness_CommandFrame :
    (after (exec .rdrangeDec (built [.byte 0x18]))).isSome = true ∧
      (after (exec .init (fresh [.ack]))).isSome = true ∧
      readOffsets (.unpack 0x00 0x80) = [] ∧
      (after (exec (.unpack 0x00 0x80) State.reset)).isSome = true := by decide

/-- UnknownRangeIsNoError: the neighbours of the known bytes, and six bytes before the range byte. -/
theorem witness_UnknownRangeIsNoError :
    (0x01 : Byte) ∉ [(0x00 : Byte), 0x08, 0x10, 0x18, 0x20] ∧
      (0x21 : Byte) ∉ [(0x00 : Byte), 0x08, 0x10, 0x18, 0x20] ∧
      (0xFF : Byte) ∉ [(0x00 : Byte), 0x08, 0x10, 0x18, 0x20] ∧
      (built [.byte 0x21]).reads = .byte 0x21 :: [] ∧
      ([1, 2, 3, 4, 5, 6] : List Byte).length = 6 ∧
      (built ([1, 2, 3, 4, 5, 6, 0xFF].map .byte)).reads =
        ([1, 2, 3, 4, 5, 6] : List Byte).map .byte ++ .byte 0xFF :: [] := by decide

/-! ### Witnesses of the rounding statements -/

/-- FdivCorrectlyRounded: 16384 by the ±6g modifier, and a finite number beside the quotient. -/
theorem witness_FdivCorrectlyRounded :
    let x : Fmt := 0x40D0000000000000
    let y : Fmt := 0x40B55555551D68C7
    fmtFinite x = true ∧ fmtFinite y = true ∧ fmtUnits y ≠ 0 ∧ fmtFinite (fdiv x y) = true ∧
      fmtFinite 0x40080000003EEA21 = true := by decide +kernel

/-- FdivCorrectlyRounded, second clause: half of the least positive number lies as near to it as to
the quotient, 0. -/
theorem witness_fdiv_tie :
    let x : Fmt := 0x0000000000000001
    let y : Fmt := 0x4000000000000000
    fmtFinite (fdiv x y) = true ∧ fmtUnits y ≠ 0 ∧
      |fmtValue (fdiv x y) - fmtValue x / fmtValue y| = |fmtValue x - fmtValue x / fmtValue y| ∧
      fmtValue x ≠ fmtValue (fdiv x y) := by decide +kernel

/-- FmulCorrectlyRounded: a g-unit result by `G0`. -/
theorem witness_FmulCorrectlyRounded :
    fmtFinite 0x3FEFFF800053E186 = true ∧ fmtFinite gravity = true ∧
      fmtFinite (fmul 0x3FEFFF800053E186 gravity) = true := by decide +kernel

/-- FmulCorrectlyRounded, second clause: the same tie, by a multiplication with one half. -/
theorem witness_fmul_tie :
    let x : Fmt := 0x0000000000000001
    let y : Fmt := 0x3FE0000000000000
    fmtFinite (fmul x y) = true ∧
      |fmtValue (fmul x y) - fmtValue x * fmtValue y| = |fmtValue x - fmtValue x * fmtValue y| ∧
      fmtValue x ≠ fmtValue (fmul x y) := by decide +kernel

end Sys2Proof.Tests
end

section
/-! The reset state: what its own registers hold, field by field (spec/10_state.md R21). -/

namespace Sys2Proof.Machine

@[simp] theorem State.reset_daddr : State.reset.daddr = none := rfl
@[simp] theorem State.reset_phase : State.reset.phase = .idle := rfl
@[simp] theorem State.reset_cmd : State.reset.cmd = none := rfl
@[simp] theorem State.reset_lo : State.reset.lo = none := rfl
@[simp] theorem State.reset_s0 : State.reset.s0 = none := rfl
@[simp] theorem State.reset_s1 : State.reset.s1 = none := rfl
@[simp] theorem State.reset_s2 : State.reset.s2 = none := rfl
@[simp] theorem State.reset_rb : State.reset.rb = none := rfl

/-- Settles O13: the rows of R21, each the reset state's own equation for that register. -/
theorem resetStateAsTabulated : Obligations.ResetStateAsTabulated :=
  ⟨State.reset_daddr, State.reset_phase, State.reset_cmd, State.reset_lo, State.reset_s0,
    State.reset_s1, State.reset_s2, State.reset_rb⟩

end Sys2Proof.Machine
end

section
/-! The transactions of a command (spec/20_memory.md R38): one predicate for the reads of a list, in
order, up to and including the first failure; one rule per way a read can go; the commands by these
rules. -/

namespace Sys2Proof.Machine

/-- Between `s` and `t` the block has issued the first reads of `offsets` at `d`, in order, with the
replies standing in `s`: all of them, each answered by a byte, where `t` has delivered an `Ok`, and up to
and including the failure where it has delivered an `Err` (R38). -/
def ReadsListed (d : DeviceAddress) (offsets : List Byte) (s t : State) : Prop :=
  ∃ k, k ≤ offsets.length ∧ t.reads = s.reads.drop k ∧ t.writes = s.writes ∧
    t.trace = s.trace ++
      List.zipWith (fun r v => Transaction.read d r v) (offsets.take k) (s.reads.take k) ∧
    (∀ p, t.rsp = s.rsp ++ [.ok p] →
      k = offsets.length ∧ ∃ vs : List Byte, s.reads.take k = vs.map .byte) ∧
    (∀ e, t.rsp = s.rsp ++ [.err e] →
      ∃ vs : List Byte, s.reads.take k = vs.map .byte ++ [.fail e])

section ReadsListed

variable {d : DeviceAddress} {offsets : List Byte} {s t : State}

/-! The block's own registers play no part in it. -/

@[simp] theorem readsListed_enter (c : Command) :
    ReadsListed d offsets (s.enter c) t ↔ ReadsListed d offsets s t := Iff.rfl

@[simp] theorem readsListed_latchLo (v : Byte) (p : Phase) :
    ReadsListed d offsets (s.latchLo v p) t ↔ ReadsListed d offsets s t := Iff.rfl

@[simp] theorem readsListed_latchS0 (v : Sample16) (p : Phase) :
    ReadsListed d offsets (s.latchS0 v p) t ↔ ReadsListed d offsets s t := Iff.rfl

@[simp] theorem readsListed_latchS1 (v : Sample16) (p : Phase) :
    ReadsListed d offsets (s.latchS1 v p) t ↔ ReadsListed d offsets s t := Iff.rfl

@[simp] theorem readsListed_latchS2 (v : Sample16) (p : Phase) :
    ReadsListed d offsets (s.latchS2 v p) t ↔ ReadsListed d offsets s t := Iff.rfl

@[simp] theorem readsListed_latchRb (v : Byte) :
    ReadsListed d offsets (s.latchRb v) t ↔ ReadsListed d offsets s t := Iff.rfl

@[simp] theorem readsListed_quiet :
    ReadsListed d offsets s.quiet t ↔ ReadsListed d offsets s t := Iff.rfl

/-- A block that waits before the first read has issued none. -/
theorem readsListed_wait : ReadsListed d offsets s s :=
  ⟨0, Nat.zero_le _, rfl, rfl, by simp, by simp, by simp⟩

/-- An `Ok` ends the list. -/
theorem readsListed_deliver_ok (p : Payload) : ReadsListed d [] s (s.deliver (.ok p)) :=
  ⟨0, le_rfl, rfl, rfl, by simp, fun _ _ => ⟨rfl, [], rfl⟩, by simp⟩

theorem readsListed_finish {p : Payload} (h : finish s p = .next t) : ReadsListed d [] s t := by
  rw [finish_eq] at h
  cases h
  exact readsListed_quiet.mp (readsListed_deliver_ok p)

/-- A read that fails is the last one. -/
theorem readsListed_fail {r : Byte} {e : TErr} {rest : List ReadReply}
    (hr : s.reads = .fail e :: rest)
    (h : transportError ({ s with reads := rest }.record (.read d r (.fail e))) e = .next t) :
    ReadsListed d (r :: offsets) s t := by
  rw [transportError_eq] at h
  cases h
  refine ⟨1, by simp, by simp [hr], rfl, by simp [hr], by simp, fun e' he => ⟨[], ?_⟩⟩
  have hee : e = e' := by simpa using he
  simp [hr, hee]

/-- A read that returns a byte comes before the reads that follow. -/
theorem readsListed_byte {r v : Byte} {rest : List ReadReply} (hr : s.reads = .byte v :: rest)
    (h : ReadsListed d offsets ({ s with reads := rest }.record (.read d r (.byte v))) t) :
    ReadsListed d (r :: offsets) s t := by
  obtain ⟨k, hk, hreads, hwrites, htrace, hok, herr⟩ := h
  refine ⟨k + 1, by simpa using hk, by simpa [hr] using hreads, hwrites, by simp [hr, htrace],
    fun p hp => ?_, fun e he => ?_⟩
  · obtain ⟨hall, vs, hvs⟩ := hok p hp
    exact ⟨by simp [hall], v :: vs, by simpa [hr] using hvs⟩
  · obtain ⟨vs, hvs⟩ := herr e he
    exact ⟨v :: vs, by simpa [hr] using hvs⟩

/-- One read of a list, by its three outcomes. -/
theorem readsListed_busRead {r : Byte} {k : Byte → State → Out}
    (hk : ∀ v u, k v u = .next t → ReadsListed d offsets u t)
    (h : busRead s d r k = .next t) : ReadsListed d (r :: offsets) s t := by
  rcases busRead_cases s d r k with ⟨_, e⟩ | ⟨v, rest, hr, e⟩ | ⟨e', rest, hr, e⟩ <;> rw [e] at h
  · cases h
    exact readsListed_wait
  · exact readsListed_byte hr (hk v _ h)
  · exact readsListed_fail hr h

/-! ### The commands -/

theorem execRdaxis_readsListed {base : Byte} (hp : s.phase = .idle) (hd : s.daddr = some d)
    (h : execRdaxis base s = .next t) : ReadsListed d [base, base + 1] s t := by
  by_cases hb : base = 0xFF
  · simp [execRdaxis, whenIdle_idle hp, highOffset_eq, hb] at h
  · simp only [execRdaxis, whenIdle_idle hp, highOffset_of_ne hb, whenConstructed_some hd] at h
    refine (readsListed_enter _).mp (readsListed_busRead (fun low u h => ?_) h)
    refine (readsListed_latchLo low .a1).mp (readsListed_busRead (fun high u h => ?_) h)
    exact readsListed_finish h

theorem readRange_readsListed {raw : Bool} {respond : Byte → Payload} (hp : s.phase = .idle)
    (hd : s.daddr = some d) (h : readRange raw respond s = .next t) :
    ReadsListed d [0x24] s t := by
  simp only [readRange, whenIdle_idle hp, whenConstructed_some hd] at h
  refine (readsListed_enter _).mp (readsListed_busRead (fun b u h => ?_) h)
  exact readsListed_finish h

theorem readAccel_readsListed {a : AccelUnits} (hp : s.phase = .idle) (hd : s.daddr = some d)
    (h : readAccel a s = .next t) :
    ReadsListed d [0x28, 0x29, 0x2A, 0x2B, 0x2C, 0x2D, 0x24] s t := by
  simp only [readAccel, whenIdle_idle hp, whenConstructed_some hd] at h
  refine (readsListed_enter _).mp (readsListed_busRead (fun xl u h => ?_) h)
  refine (readsListed_latchLo xl .c1).mp (readsListed_busRead (fun xh u h => ?_) h)
  refine (readsListed_latchS0 _ .c2).mp (readsListed_busRead (fun yl u h => ?_) h)
  refine (readsListed_latchLo yl .c3).mp (readsListed_busRead (fun yh u h => ?_) h)
  refine (readsListed_latchS1 _ .c4).mp (readsListed_busRead (fun zl u h => ?_) h)
  refine (readsListed_latchLo zl .c5).mp (readsListed_busRead (fun zh u h => ?_) h)
  refine (readsListed_latchS2 _ .c6).mp (readsListed_busRead (fun b u h => ?_) h)
  exact (readsListed_latchRb b).mp (readsListed_finish h)

/-- A pure command only delivers its response (R68 to R70, R81). -/
theorem exec_pure {i : Instr} (hi : isPure i = true) (s : State) :
    ∃ p, exec i s = whenIdle s (.next (s.deliver (.ok p))) := by
  cases i with
  | unpack | decrange | scale => exact ⟨_, rfl⟩
  | init | rdaxis | rdrangeDec | rdrangeRaw | rdaccelG | rdaccelMs2 => cases hi

theorem readOffsets_of_isPure {i : Instr} (hi : isPure i = true) : readOffsets i = [] := by
  cases i with
  | unpack | decrange | scale => rfl
  | init | rdaxis | rdrangeDec | rdrangeRaw | rdaccelG | rdaccelMs2 => cases hi

theorem exec_pure_readsListed {i : Instr} (hi : isPure i = true) (hp : s.phase = .idle)
    (h : exec i s = .next t) : ReadsListed d (readOffsets i) s t := by
  obtain ⟨p, e⟩ := exec_pure hi s
  rw [e, whenIdle_idle hp] at h
  cases h
  rw [readOffsets_of_isPure hi]
  exact readsListed_deliver_ok p

theorem exec_pure_trace {i : Instr} (hi : isPure i = true) (h : exec i s = .next t) :
    t.trace = s.trace := by
  obtain ⟨p, e⟩ := exec_pure hi s
  rw [e] at h
  by_cases hp : s.phase = .idle
  · rw [whenIdle_idle hp] at h
    cases h
    rfl
  · rw [whenIdle_busy hp] at h
    cases h
    rfl

/-- INIT on a constructed block is refused (R102 case 4). -/
theorem execInit_constructed (hp : s.phase = .idle) (hd : s.daddr = some d) :
    execInit s = .refused .alreadyConstructed := by
  simp [execInit, whenIdle_idle hp, hd]

/-- On a constructed block every command issues the reads of its list. -/
theorem exec_readsListed {i : Instr} (hp : s.phase = .idle) (hd : s.daddr = some d)
    (h : exec i s = .next t) : ReadsListed d (readOffsets i) s t := by
  cases i with
  | init =>
    have e : exec .init s = .refused .alreadyConstructed := execInit_constructed hp hd
    rw [e] at h
    cases h
  | rdaxis => exact execRdaxis_readsListed hp hd h
  | rdrangeDec | rdrangeRaw => exact readRange_readsListed hp hd h
  | rdaccelG | rdaccelMs2 => exact readAccel_readsListed hp hd h
  | unpack | decrange | scale => exact exec_pure_readsListed rfl hp h

/-- An INIT that has ended has issued its one write, acknowledged or failed, and no read (R75). -/
theorem execInit_ended (hp : s.phase = .idle) (h : execInit s = .next t) (ht : t.phase = .idle) :
    ∃ reply, t.trace = s.trace ++ [.write s.cmdDaddr 0x20 0x1F reply] ∧ t.reads = s.reads := by
  rcases hd : s.daddr with _ | d
  · simp only [execInit, whenIdle_idle hp, hd] at h
    rcases busWrite_cases (s.enter (.init s.cmdDaddr)) s.cmdDaddr Config.regCtrl4 Config.initValue
      (fun t => finish (t.construct s.cmdDaddr) .unit) with ⟨_, e⟩ | ⟨_, _, e⟩ | ⟨e', _, _, e⟩ <;>
      rw [e] at h <;> cases h
    · cases ht
    · exact ⟨.ack, rfl, rfl⟩
    · exact ⟨.fail e', rfl, rfl⟩
  · rw [execInit_constructed hp hd] at h
    cases h

end ReadsListed

/-- Settles O40: the reads of each command by `ReadsListed`, the write of INIT by the outcomes of
`busWrite`, and the pure commands, which only deliver. -/
theorem transactionsAsListed : Obligations.TransactionsAsListed :=
  ⟨fun _ _ _ _ hp hd h => exec_readsListed hp hd h,
    fun _ _ hp h ht => execInit_ended hp h ht,
    fun _ _ _ hi h => exec_pure_trace hi h⟩

end Sys2Proof.Machine
end

section
/-! The words that select a row and the words that R52 lists (spec/30_encoding.md R48, R52): a row
by its fields, the decoder by inversion, and the step of the sequencer at a word without a row. -/

namespace Sys2Proof

/-! ### Rows by fields -/

/-- A row selects a word field by field. -/
theorem Row.selects_iff (r : Row) (w : CommandWord) :
    r.selects w = true ↔
      fieldOp w &&& fieldOp r.mask = fieldOp r.pattern ∧
      fieldMod w &&& fieldMod r.mask = fieldMod r.pattern ∧
      fieldB w &&& fieldB r.mask = fieldB r.pattern ∧
      fieldA w &&& fieldA r.mask = fieldA r.pattern := by
  rw [← selects_assembleFields, assembleFields_fields]

/-- R48 field by field: when no row selects a word. -/
theorem noRow_iff (w : CommandWord) :
    (∀ r ∈ commandTable, r.selects w = false) ↔
      ¬ (fieldOp w = 0x1 ∧ fieldMod w = 0 ∧ fieldB w = 0 ∧ fieldA w = 0) ∧
      ¬ (fieldOp w = 0x2 ∧ fieldMod w = 0 ∧ fieldB w = 0) ∧
      ¬ (fieldOp w = 0x3 ∧ fieldMod w = 0 ∧ fieldB w = 0 ∧ fieldA w = 0) ∧
      ¬ (fieldOp w = 0x3 ∧ fieldMod w = 1 ∧ fieldB w = 0 ∧ fieldA w = 0) ∧
      ¬ (fieldOp w = 0x4 ∧ fieldMod w = 0 ∧ fieldB w = 0 ∧ fieldA w = 0) ∧
      ¬ (fieldOp w = 0x4 ∧ fieldMod w = 1 ∧ fieldB w = 0 ∧ fieldA w = 0) ∧
      ¬ (fieldOp w = 0x8 ∧ fieldMod w = 0) ∧
      ¬ (fieldOp w = 0x9 ∧ fieldMod w = 0 ∧ fieldB w = 0) ∧
      ¬ (fieldOp w = 0xA ∧ fieldMod w = 0 ∧ fieldB w = 0) := by
  have h4 (x : BitVec 4) : x &&& 15#4 = x := BitVec.and_allOnes
  have h8 (x : BitVec 8) : x &&& 255#8 = x := BitVec.and_allOnes
  simp only [commandTable, List.forall_mem_cons, ← Bool.not_eq_true, Row.selects_iff, Instr.row]
  generalize fieldOp w = op, fieldMod w = m, fieldB w = b, fieldA w = a
  simp [fieldOp, fieldMod, fieldB, fieldA, h4, h8]

/-- R52 lists the words without a row: by the opcode, then by the fields that opcode leaves unused.
-/
theorem noRow_iff_reservedByR52 (w : CommandWord) :
    (∀ r ∈ commandTable, r.selects w = false) ↔ Machine.reservedByR52 w := by
  rw [noRow_iff, Machine.reservedByR52]
  generalize fieldOp w = op, fieldMod w = m, fieldB w = b, fieldA w = a
  have hop : op ∈ [0x0, 0x5, 0x6, 0x7, 0xB, 0xC, 0xD, 0xE, 0xF] ∨
      op ∈ [0x1, 0x2, 0x3, 0x4, 0x8, 0x9, 0xA] := by
    revert op
    decide
  rcases hop with hres | hrow
  · refine iff_of_true ?_ (.inl hres)
    fin_cases hres <;> simp
  · fin_cases hrow <;> simp <;> tauto

/-! ### The decoder, by inversion -/

section Decoder

variable {w : CommandWord} {i : Instr} {k k' : Except DecodeError Instr}

theorem needModZero_eq_ok (h : needModZero w k = .ok i) : fieldMod w = 0 ∧ k = .ok i := by
  unfold needModZero at h
  split at h
  · exact ⟨‹_›, h⟩
  · cases h

theorem needBZero_eq_ok (h : needBZero w k = .ok i) : fieldB w = 0 ∧ k = .ok i := by
  unfold needBZero at h
  split at h
  · exact ⟨‹_›, h⟩
  · cases h

theorem needAZero_eq_ok (h : needAZero w k = .ok i) : fieldA w = 0 ∧ k = .ok i := by
  unfold needAZero at h
  split at h
  · exact ⟨‹_›, h⟩
  · cases h

theorem byModifier_eq_ok (h : byModifier w k k' = .ok i) :
    fieldMod w = 0 ∧ k = .ok i ∨ fieldMod w = 1 ∧ k' = .ok i := by
  unfold byModifier at h
  split at h
  · exact .inl ⟨‹_›, h⟩
  · split at h
    · exact .inr ⟨‹_›, h⟩
    · cases h

theorem needBAZero_eq_ok {j : Instr} (h : needBZero w (needAZero w (.ok j)) = .ok i) :
    fieldB w = 0 ∧ fieldA w = 0 ∧ j = i := by
  obtain ⟨hb, h⟩ := needBZero_eq_ok h
  obtain ⟨ha, h⟩ := needAZero_eq_ok h
  exact ⟨hb, ha, Except.ok.inj h⟩

theorem needModBZero_eq_ok {j : Instr} (h : needModZero w (needBZero w (.ok j)) = .ok i) :
    fieldMod w = 0 ∧ fieldB w = 0 ∧ j = i := by
  obtain ⟨hm, h⟩ := needModZero_eq_ok h
  obtain ⟨hb, h⟩ := needBZero_eq_ok h
  exact ⟨hm, hb, Except.ok.inj h⟩

/-- A word that decodes is the word of its command: each branch of the decoder fixes all four
fields. -/
theorem encode_of_decode (h : decode w = .ok i) : encode i = w := by
  have word {op m : BitVec 4} {b a : Byte} (hop : fieldOp w = op) (hm : fieldMod w = m)
      (hb : fieldB w = b) (ha : fieldA w = a) : assembleFields op m b a = w := by
    rw [← hop, ← hm, ← hb, ← ha, assembleFields_fields]
  unfold decode at h
  split at h
  case isTrue hop =>
    obtain ⟨hm, h⟩ := needModZero_eq_ok h
    obtain ⟨hb, ha, rfl⟩ := needBAZero_eq_ok h
    exact word hop hm hb ha
  split at h
  case isTrue hop =>
    obtain ⟨hm, hb, rfl⟩ := needModBZero_eq_ok h
    exact word hop hm hb rfl
  split at h
  case isTrue hop =>
    rcases byModifier_eq_ok h with ⟨hm, h⟩ | ⟨hm, h⟩
    all_goals
      obtain ⟨hb, ha, rfl⟩ := needBAZero_eq_ok h
      exact word hop hm hb ha
  split at h
  case isTrue hop =>
    rcases byModifier_eq_ok h with ⟨hm, h⟩ | ⟨hm, h⟩
    all_goals
      obtain ⟨hb, ha, rfl⟩ := needBAZero_eq_ok h
      exact word hop hm hb ha
  split at h
  case isTrue hop =>
    obtain ⟨hm, h⟩ := needModZero_eq_ok h
    cases h
    exact word hop hm rfl rfl
  split at h
  case isTrue hop =>
    obtain ⟨hm, hb, rfl⟩ := needModBZero_eq_ok h
    exact word hop hm hb rfl
  split at h
  case isTrue hop =>
    obtain ⟨hm, hb, rfl⟩ := needModBZero_eq_ok h
    exact word hop hm hb rfl
  cases h

end Decoder

/-- The row of a command is one of the nine. -/
theorem row_mem_commandTable (i : Instr) : i.row ∈ commandTable := by
  cases i <;> simp [commandTable, Instr.row]

/-- The word of a command selects the command's row. -/
theorem row_selects_encode (i : Instr) : i.row.selects (encode i) = true := by
  cases i with
  | init => exact Laws.EncodeSelectsRow.init
  | rdaxis base => exact Laws.EncodeSelectsRow.rdaxis base
  | rdrangeDec => exact Laws.EncodeSelectsRow.rdrangeDec
  | rdrangeRaw => exact Laws.EncodeSelectsRow.rdrangeRaw
  | rdaccelG => exact Laws.EncodeSelectsRow.rdaccelG
  | rdaccelMs2 => exact Laws.EncodeSelectsRow.rdaccelMs2
  | unpack low high => exact Laws.EncodeSelectsRow.unpack low high
  | decrange byte => exact Laws.EncodeSelectsRow.decrange byte
  | scale byte => exact Laws.EncodeSelectsRow.scale byte

/-- A word that decodes selects the row of its command. -/
theorem row_selects_of_decode {w : CommandWord} {i : Instr} (h : decode w = .ok i) :
    i.row.selects w = true :=
  encode_of_decode h ▸ row_selects_encode i

/-- A word that selects no row is rejected by the decoder. -/
theorem decode_error_of_noRow {w : CommandWord} (h : ∀ r ∈ commandTable, r.selects w = false) :
    ∃ e, decode w = .error e := by
  rcases hd : decode w with e | i
  · exact ⟨e, rfl⟩
  · cases (h _ (row_mem_commandTable i)).symm.trans (row_selects_of_decode hd)

end Sys2Proof

namespace Sys2Proof.Machine

/-- `RDAXIS 0xFF` is refused for its offset, constructed or not (R33, R102 case 2). -/
theorem execRdaxis_ff {s : State} (hp : s.phase = .idle) :
    execRdaxis 0xFF s = .refused .offsetOutOfRange := by
  simp [execRdaxis, whenIdle_idle hp, highOffset_eq]

/-- Settles O11: the list of R52 by `noRow_iff_reservedByR52`, the refusal of a word without a row
by the decoder, and that of `RDAXIS 0xFF` by its meaning. -/
theorem reservedWordsRefused : Obligations.ReservedWordsRefused := by
  refine ⟨noRow_iff_reservedByR52, fun s o ht hr hp hport h => ?_, fun s o ht hr hp hport hw => ?_⟩
  · obtain ⟨e, he⟩ := decode_error_of_noRow h
    exact ⟨e, (step_sequencer ht).trans (sequencerStep_reserved (s := s.pass) hr hp hport he)⟩
  · have hdec : decode o.word = .ok (.rdaxis 0xFF) := by rw [hw]; decide
    have hstep : step s = .refused .offsetOutOfRange := by
      rw [step_sequencer ht, sequencerStep_command (s := s.pass) hr hp hport hdec]
      exact execRdaxis_ff hp
    exact ⟨⟨_, row_mem_commandTable _, row_selects_of_decode hdec⟩, ⟨_, hstep⟩, fun _ _ => hstep⟩

end Sys2Proof.Machine
end

section
/-! Pseudo-instructions (spec/30_encoding.md R59): each operand form by what it can read, and the
mnemonics of a command that is read. -/

namespace Sys2Proof.Machine

/-- A line without operands reads as its command. -/
theorem noOperand_eq_some {operands : List Text} {i : Instr} {a : Assembled}
    (h : noOperand operands i = some a) : a.1 = i := by
  unfold noOperand at h
  split at h <;> cases h
  rfl

theorem oneByte_eq_some {operands : List Text} {k : Byte → Instr} {a : Assembled}
    (h : oneByte operands k = some a) : ∃ v, a.1 = k v := by
  unfold oneByte at h
  split at h
  · obtain ⟨v, _, rfl⟩ := Option.map_eq_some_iff.mp h
    exact ⟨v, rfl⟩
  · cases h

theorem twoBytes_eq_some {operands : List Text} {k : Byte → Byte → Instr} {a : Assembled}
    (h : twoBytes operands k = some a) : ∃ v w, a.1 = k v w := by
  unfold twoBytes at h
  split at h
  · split at h <;> cases h
    exact ⟨_, _, rfl⟩
  · cases h

theorem initOperand_eq_some {names : List (Text × DeviceAddress)} {operands : List Text}
    {a : Assembled} (h : initOperand names operands = some a) : a.1 = .init := by
  unfold initOperand at h
  split at h
  · obtain ⟨_, _, rfl⟩ := Option.map_eq_some_iff.mp h
    rfl
  · cases h

/-- The three pseudo-instructions with their expansions (R59). -/
def pseudoInstructions : List (Text × Instr) :=
  [(['R', 'D', 'X'], .rdx), (['R', 'D', 'Y'], .rdy), (['R', 'D', 'Z'], .rdz)]

/-- One branch of a chain of tests, by inversion. -/
theorem of_ite_eq_some {α : Type} {c P : Prop} [Decidable c] {x y : Option α} {a : α}
    (h : (if c then x else y) = some a) (hpos : c → x = some a → P) (hneg : y = some a → P) :
    P := by
  by_cases hc : c
  · exact hpos hc ((if_pos hc).symm.trans h)
  · exact hneg ((if_neg hc).symm.trans h)

/-- A mnemonic that reads as a command is the command's own or that of a pseudo-instruction. -/
theorem assembleParts_mnemonic {names : List (Text × DeviceAddress)} {m : Text}
    {operands : List Text} {a : Assembled} (h : assembleParts names m operands = some a) :
    m = mnemonicText a.1 ∨ (m, a.1) ∈ pseudoInstructions := by
  unfold assembleParts at h
  refine of_ite_eq_some h (fun hm h => .inl (by rw [hm, initOperand_eq_some h])) fun h => ?_
  refine of_ite_eq_some h (fun hm h => .inl ?_) fun h => ?_
  · obtain ⟨v, hv⟩ := oneByte_eq_some h
    rw [hm, hv]
    rfl
  refine of_ite_eq_some h (fun hm h => .inl (by rw [hm, noOperand_eq_some h])) fun h => ?_
  refine of_ite_eq_some h (fun hm h => .inl (by rw [hm, noOperand_eq_some h])) fun h => ?_
  refine of_ite_eq_some h (fun hm h => .inl (by rw [hm, noOperand_eq_some h])) fun h => ?_
  refine of_ite_eq_some h (fun hm h => .inl (by rw [hm, noOperand_eq_some h])) fun h => ?_
  refine of_ite_eq_some h (fun hm h => .inl ?_) fun h => ?_
  · obtain ⟨v, w, hv⟩ := twoBytes_eq_some h
    rw [hm, hv]
    rfl
  refine of_ite_eq_some h (fun hm h => .inl ?_) fun h => ?_
  · obtain ⟨v, hv⟩ := oneByte_eq_some h
    rw [hm, hv]
    rfl
  refine of_ite_eq_some h (fun hm h => .inl ?_) fun h => ?_
  · obtain ⟨v, hv⟩ := oneByte_eq_some h
    rw [hm, hv]
    rfl
  have pseudo {m' : Text} {i : Instr} (hm : m = m') (h : noOperand operands i = some a)
      (hi : (m', i) ∈ pseudoInstructions) : m = mnemonicText a.1 ∨ (m, a.1) ∈ pseudoInstructions :=
    .inr (by rw [hm, noOperand_eq_some h]; exact hi)
  refine of_ite_eq_some h (fun hm h => pseudo hm h (by decide)) fun h => ?_
  refine of_ite_eq_some h (fun hm h => pseudo hm h (by decide)) fun h => ?_
  refine of_ite_eq_some h (fun hm h => pseudo hm h (by decide)) fun h => ?_
  cases h

/-- Settles O7: the lines, words and offsets are computed; the mnemonics by
`assembleParts_mnemonic`. -/
theorem pseudoInstructionsExpand : Obligations.PseudoInstructionsExpand :=
  ⟨fun _ => ⟨rfl, rfl, rfl⟩, by decide, by decide, by decide, rfl, rfl, rfl,
    fun _ _ _ _ h => assembleParts_mnemonic h⟩

end Sys2Proof.Machine
end

section
/-! The response word (spec/30_encoding.md R51): its fields, and the places of a value in the data.
-/

namespace Sys2Proof.Machine

/-! ### A narrow value in a wide word -/

theorem extractLsb'_low_setWidth {k w : Nat} (x : BitVec k) (h : k ≤ w) :
    (x.setWidth w).extractLsb' 0 k = x := by
  rw [BitVec.extractLsb'_setWidth_of_le (by omega), BitVec.extractLsb'_eq_self]

theorem extractLsb'_above_setWidth {k : Nat} (w len : Nat) (x : BitVec k) :
    (x.setWidth w).extractLsb' k len = 0 := by
  ext i hi
  simp [BitVec.getLsbD_of_ge]

/-! ### The fields of the word -/

theorem word_err_status (n : Nat) (e : TErr) : ((Response.err e).word n).extractLsb' 195 1 = 1 :=
  BitVec.extractLsb'_append_eq_left

section Fields

variable (n : Nat) (p : Payload)

theorem word_ok_status : ((Response.ok p).word n).extractLsb' 195 1 = 0 := by
  rw [Response.word, BitVec.extractLsb'_append_eq_of_le (by omega)]
  exact BitVec.extractLsb'_append_eq_left

theorem word_ok_kind : ((Response.ok p).word n).extractLsb' 192 3 = p.kind := by
  rw [Response.word, BitVec.extractLsb'_append_eq_of_le (by omega)]
  exact BitVec.extractLsb'_append_eq_right

/-- Bits of the word below 192 are the bits of the data. -/
theorem word_ok_data {start len : Nat} (h : start + len ≤ 192) :
    ((Response.ok p).word n).extractLsb' start len = p.data.extractLsb' start len :=
  BitVec.extractLsb'_append_eq_of_add_le h

/-- Data that is one value of at most 192 bits: the value in the low bits, zeros above it. -/
theorem word_ok_setWidth {k : Nat} {x : BitVec k} (hd : p.data = x.setWidth 192) (hk : k ≤ 192) :
    ((Response.ok p).word n).extractLsb' 0 k = x ∧
      ((Response.ok p).word n).extractLsb' k (192 - k) = 0 := by
  rw [word_ok_data n p (by omega), word_ok_data n p (by omega), hd]
  exact ⟨extractLsb'_low_setWidth x hk, extractLsb'_above_setWidth _ _ x⟩

/-- The three components stand one above the other, X lowest. -/
theorem word_ok_accel (x y z : Fmt) :
    ((Response.ok (.accel x y z)).word n).extractLsb' 0 64 = x ∧
      ((Response.ok (.accel x y z)).word n).extractLsb' 64 64 = y ∧
      ((Response.ok (.accel x y z)).word n).extractLsb' 128 64 = z := by
  rw [word_ok_data _ _ (by omega), word_ok_data _ _ (by omega), word_ok_data _ _ (by omega),
    Payload.data]
  refine ⟨BitVec.extractLsb'_append_eq_right, ?_, ?_⟩
  · rw [BitVec.extractLsb'_append_eq_of_le (by omega)]
    exact BitVec.extractLsb'_append_eq_right
  · rw [BitVec.extractLsb'_append_eq_of_le (by omega)]
    exact BitVec.extractLsb'_append_eq_left

end Fields

/-- The 8-bit pattern of a range holds its code as a signed number (R54). -/
theorem rangePattern_toInt (r : RangeSetting) : (rangePattern r).toInt = rangeCode r := by
  cases r <;> rfl

/-- Settles O60: status and kind by the fields of the word, the data by the place of each value in
it. -/
theorem responseWordLayout : Obligations.ResponseWordLayout := by
  refine ⟨fun n p => ⟨word_ok_status n p, rfl, ?_⟩, fun n e => ⟨word_err_status n e, rfl⟩⟩
  cases p with
  | unit => exact ⟨word_ok_kind n _, (word_ok_data n _ le_rfl).trans BitVec.extractLsb'_zero⟩
  | sample | raw | modifier => exact ⟨word_ok_kind n _, word_ok_setWidth n _ rfl (by omega)⟩
  | decoded r =>
    obtain ⟨hlow, hhigh⟩ := word_ok_setWidth n (.decoded r) rfl (by omega)
    exact ⟨word_ok_kind n _, by rw [hlow, rangePattern_toInt], hhigh⟩
  | accel x y z => exact ⟨word_ok_kind n _, word_ok_accel n x y z⟩

end Sys2Proof.Machine
end

section
/-! The response of a command (spec/30_encoding.md R46, R50): one predicate for "nothing delivered
while in progress, one response at the end", one rule per way a transaction can go, the commands by
these rules. -/

namespace Sys2Proof.Machine

/-- What a bus-reading command does is done with an address. -/
theorem whenConstructed_next {s t : State} {k : DeviceAddress → Out}
    (h : whenConstructed s k = .next t) : ∃ d, k d = .next t := by
  rcases hd : s.daddr with _ | d
  · rw [whenConstructed_none hd] at h
    cases h
  · exact ⟨d, whenConstructed_some hd k ▸ h⟩

/-- A command that has been entered is in progress. -/
theorem enter_phase_ne_idle (s : State) (c : Command) : (s.enter c).phase ≠ .idle := by
  cases c <;> simp [Command.firstPhase]

/-- From `s` to `t` a command of payload kind `kind` has delivered one response if it has ended, and
none if it is still in progress (R46, R50). -/
def AnswersOnce (kind : BitVec 3) (s t : State) : Prop :=
  (t.phase = .idle → ∃ r, t.rsp = s.rsp ++ [r] ∧ ∀ p, r = .ok p → p.kind = kind) ∧
  (t.phase ≠ .idle → t.rsp = s.rsp)

section AnswersOnce

variable {kind : BitVec 3} {s t u : State}

/-- Only the responses delivered so far matter of the state before. -/
theorem answersOnce_of_rsp (hu : u.rsp = s.rsp) (h : AnswersOnce kind u t) :
    AnswersOnce kind s t := by
  simpa only [AnswersOnce, hu] using h

/-- A command that waits in a phase has delivered nothing. -/
theorem answersOnce_wait (hp : s.phase ≠ .idle) : AnswersOnce kind s s :=
  ⟨fun h => absurd h hp, fun _ => rfl⟩

theorem answersOnce_deliver_ok {p : Payload} (hp : s.phase = .idle) :
    AnswersOnce p.kind s (s.deliver (.ok p)) :=
  ⟨fun _ => ⟨_, rfl, fun q hq => by cases hq; rfl⟩, fun h => absurd hp h⟩

theorem answersOnce_finish {p : Payload} (h : finish s p = .next t) : AnswersOnce p.kind s t := by
  rw [finish_eq] at h
  cases h
  exact answersOnce_of_rsp (State.quiet_rsp s) (answersOnce_deliver_ok rfl)

theorem answersOnce_transportError {e : TErr} (h : transportError s e = .next t) :
    AnswersOnce kind s t := by
  rw [transportError_eq] at h
  cases h
  exact ⟨fun _ => ⟨.err e, rfl, by simp⟩, fun h => absurd rfl h⟩

/-- A read of a command in progress: it waits, fails, or leaves the response to what follows. -/
theorem answersOnce_busRead {d : DeviceAddress} {r : Byte} {k : Byte → State → Out}
    (h : busRead u d r k = .next t) (hu : u.rsp = s.rsp) (hp : u.phase ≠ .idle)
    (hk : ∀ v w, k v w = .next t → AnswersOnce kind w t) : AnswersOnce kind s t := by
  refine answersOnce_of_rsp hu ?_
  rcases busRead_cases u d r k with ⟨_, e⟩ | ⟨v, rest, _, e⟩ | ⟨e', rest, _, e⟩ <;> rw [e] at h
  · cases h
    exact answersOnce_wait hp
  · exact answersOnce_of_rsp (by simp) (hk v _ h)
  · exact answersOnce_of_rsp (by simp) (answersOnce_transportError h)

/-- The same for a write. -/
theorem answersOnce_busWrite {d : DeviceAddress} {r v : Byte} {k : State → Out}
    (h : busWrite u d r v k = .next t) (hu : u.rsp = s.rsp) (hp : u.phase ≠ .idle)
    (hk : ∀ w, k w = .next t → AnswersOnce kind w t) : AnswersOnce kind s t := by
  refine answersOnce_of_rsp hu ?_
  rcases busWrite_cases u d r v k with ⟨_, e⟩ | ⟨rest, _, e⟩ | ⟨e', rest, _, e⟩ <;> rw [e] at h
  · cases h
    exact answersOnce_wait hp
  · exact answersOnce_of_rsp (by simp) (hk _ h)
  · exact answersOnce_of_rsp (by simp) (answersOnce_transportError h)

/-! ### The commands -/

theorem execInit_answersOnce (hp : s.phase = .idle) (h : execInit s = .next t) :
    AnswersOnce (payloadKind .init) s t := by
  rcases hd : s.daddr with _ | d
  · simp only [execInit, whenIdle_idle hp, hd] at h
    exact answersOnce_busWrite h rfl (enter_phase_ne_idle s _) fun u h => answersOnce_finish h
  · rw [execInit_constructed hp hd] at h
    cases h

theorem execRdaxis_answersOnce {base : Byte} (hp : s.phase = .idle)
    (h : execRdaxis base s = .next t) : AnswersOnce (payloadKind (.rdaxis base)) s t := by
  by_cases hb : base = 0xFF
  · simp [execRdaxis, whenIdle_idle hp, highOffset_eq, hb] at h
  · simp only [execRdaxis, whenIdle_idle hp, highOffset_of_ne hb] at h
    obtain ⟨d, h⟩ := whenConstructed_next h
    refine answersOnce_busRead h rfl (enter_phase_ne_idle s _) fun low u h => ?_
    refine answersOnce_busRead h rfl (by simp) fun high u h => ?_
    exact answersOnce_finish h

theorem readRange_answersOnce {raw : Bool} {respond : Byte → Payload}
    (hk : ∀ b, (respond b).kind = kind) (hp : s.phase = .idle)
    (h : readRange raw respond s = .next t) : AnswersOnce kind s t := by
  simp only [readRange, whenIdle_idle hp] at h
  obtain ⟨d, h⟩ := whenConstructed_next h
  refine answersOnce_busRead h rfl (enter_phase_ne_idle s _) fun b u h => ?_
  exact hk b ▸ answersOnce_finish h

theorem readAccel_answersOnce {a : AccelUnits} (hp : s.phase = .idle)
    (h : readAccel a s = .next t) : AnswersOnce 5 s t := by
  simp only [readAccel, whenIdle_idle hp] at h
  obtain ⟨d, h⟩ := whenConstructed_next h
  refine answersOnce_busRead h rfl (enter_phase_ne_idle s _) fun xl u h => ?_
  refine answersOnce_busRead h rfl (by simp) fun xh u h => ?_
  refine answersOnce_busRead h rfl (by simp) fun yl u h => ?_
  refine answersOnce_busRead h rfl (by simp) fun yh u h => ?_
  refine answersOnce_busRead h rfl (by simp) fun zl u h => ?_
  refine answersOnce_busRead h rfl (by simp) fun zh u h => ?_
  refine answersOnce_busRead h rfl (by simp) fun b u h => ?_
  exact answersOnce_of_rsp rfl (answersOnce_finish h)

/-- Every command delivers one response, of its kind, when it ends. -/
theorem exec_answersOnce {i : Instr} (hp : s.phase = .idle) (h : exec i s = .next t) :
    AnswersOnce (payloadKind i) s t := by
  cases i with
  | init => exact execInit_answersOnce hp h
  | rdaxis => exact execRdaxis_answersOnce hp h
  | rdrangeDec | rdrangeRaw => exact readRange_answersOnce (fun _ => rfl) hp h
  | rdaccelG | rdaccelMs2 => exact readAccel_answersOnce hp h
  | unpack | decrange | scale =>
    obtain rfl := Host.Outcome.next.inj ((whenIdle_idle hp _).symm.trans h)
    exact answersOnce_deliver_ok hp

end AnswersOnce

/-- No pure command ends with an error. -/
theorem isPure_eq_false_of_err {i : Instr} {s t : State} {e : TErr} (hp : s.phase = .idle)
    (h : exec i s = .next t) (he : t.rsp = s.rsp ++ [.err e]) : isPure i = false := by
  by_contra hi
  obtain ⟨p, hx⟩ := exec_pure (by simpa using hi) s
  rw [hx, whenIdle_idle hp] at h
  cases h
  simp at he

/-- An idle block, constructed or not, whose next transaction of either kind fails with `e`. -/
def failingNext (daddr : Option DeviceAddress) (e : TErr) : State :=
  { State.reset with daddr := daddr, reads := [.fail e], writes := [.fail e] }

/-- Every legal bus command ends with `Err` where its first transaction fails (R50, R97). -/
theorem exec_failingNext {i : Instr} (e : TErr) (hi : isPure i = false) (hw : i.wellFormed = true) :
    ∃ daddr t, exec i (failingNext daddr e) = .next t ∧ t.rsp = [.err e] := by
  cases i with
  | init => exact ⟨none, _, rfl, rfl⟩
  | rdrangeDec | rdrangeRaw | rdaccelG | rdaccelMs2 => exact ⟨some ⟨0⟩, _, rfl, rfl⟩
  | rdaxis base =>
    have hb : base ≠ 0xFF := by simpa [Instr.wellFormed] using hw
    refine ⟨some ⟨0⟩, ?_⟩
    simp only [exec, execRdaxis, highOffset_of_ne hb]
    exact ⟨_, rfl, rfl⟩
  | unpack | decrange | scale => cases hi

/-- Settles O57: one response by `AnswersOnce`, no error of a pure command, and an error of each bus
command on `failingNext`. -/
theorem oneResponseOfTheRightKind : Obligations.OneResponseOfTheRightKind := by
  refine ⟨fun i s t hp h => ?_, fun i e hi hw => ?_⟩
  · obtain ⟨hend, hbusy⟩ := exec_answersOnce hp h
    refine ⟨fun ht => ?_, hbusy⟩
    obtain ⟨r, hr, hkind⟩ := hend ht
    exact ⟨r, hr, hkind, fun e he => isPure_eq_false_of_err hp h (he ▸ hr)⟩
  · obtain ⟨daddr, t, h, ht⟩ := exec_failingNext e hi hw
    exact ⟨_, t, rfl, h, ht⟩

end Sys2Proof.Machine
end

section
/-! The value on `cmd_daddr` (spec/30_encoding.md R49): INIT latches it when it is accepted, and the
meaning of every other command commutes with replacing it. -/

namespace Sys2Proof.Machine

/-! ### INIT latches the address it is offered with -/

/-- INIT accepted on an unconstructed block waits for its write to be answered. -/
theorem execInit_accept {s : State} (o : Offer) (hp : s.phase = .idle) (hd : s.daddr = none) :
    execInit (s.accept o) = .next ((s.accept o).enter (.init o.daddr)) := by
  simp only [execInit, State.accept_daddr, hd, State.accept_cmdDaddr]
  rw [whenIdle_idle (by simpa using hp), busWrite_nil (by simp)]

/-- A step of the sequencer with the write of INIT acknowledged constructs the block with the
latched address, whatever stands on `cmd_daddr`. -/
theorem step_i0_ack {s : State} {a : DeviceAddress} {more : List WriteReply}
    (ht : s.turn = .sequencer) (hr : s.rst = false) (hp : s.phase = .i0)
    (hc : s.cmd = some (.init a)) (hw : s.writes = .ack :: more) :
    ∃ u, step s = .next u ∧ u.daddr = some a ∧ u.trace = s.trace ++ [.write a 0x20 0x1F .ack] := by
  have hbusy : s.pass.phase ≠ .idle := by simp [hp]
  rw [step_sequencer ht, sequencerStep_busy (by simpa using hr) hbusy,
    phaseStep_i0 (by simpa using hp) (by simpa using hc), busWrite_ack (by simpa using hw),
    finish_eq]
  exact ⟨_, rfl, rfl, rfl⟩

/-- The bus acknowledges the write of INIT where no answer stands at the port. -/
theorem busAct_ack {s : State} {a : DeviceAddress} {q v : Byte}
    (hi : issued s = some (.write a q v)) (hw : s.writes = []) (r : Option ReadReply) :
    busAct r (some .ack) s = { s with writes := [.ack] } := by
  simp [busAct, hi, hw]

/-! ### Every other command ignores `cmd_daddr` -/

/-- The state with another value on `cmd_daddr`. -/
def State.withCmdDaddr (s : State) (a : DeviceAddress) : State := { s with cmdDaddr := a }

/-- Replacing the value on `cmd_daddr` before `f` replaces it after `f` and changes nothing else
(R49). -/
def IgnoresCmdDaddr (f : State → Out) : Prop :=
  ∀ (s t : State) (a : DeviceAddress), f s = .next t →
    f (s.withCmdDaddr a) = .next (t.withCmdDaddr a)

theorem ignoresCmdDaddr_next {g : State → State}
    (hg : ∀ s a, g (s.withCmdDaddr a) = (g s).withCmdDaddr a) :
    IgnoresCmdDaddr fun s => .next (g s) := by
  intro s t a h
  cases h
  exact congrArg _ (hg s a)

theorem ignoresCmdDaddr_refused (r : Refusal) : IgnoresCmdDaddr fun _ => .refused r := by
  intro _ _ _ h
  cases h

theorem ignoresCmdDaddr_finish (p : Payload) : IgnoresCmdDaddr fun s => finish s p :=
  ignoresCmdDaddr_next fun _ _ => rfl

theorem ignoresCmdDaddr_whenIdle {f : State → Out} (hf : IgnoresCmdDaddr f) :
    IgnoresCmdDaddr fun s => whenIdle s (f s) := by
  intro s t a h
  beta_reduce at h ⊢
  by_cases hp : s.phase = .idle
  · rw [whenIdle_idle hp] at h
    rw [whenIdle_idle (s := s.withCmdDaddr a) hp, hf s t a h]
  · rw [whenIdle_busy hp] at h
    cases h
    rw [whenIdle_busy (s := s.withCmdDaddr a) hp]

theorem ignoresCmdDaddr_whenConstructed {f : DeviceAddress → State → Out}
    (hf : ∀ d, IgnoresCmdDaddr (f d)) :
    IgnoresCmdDaddr fun s => whenConstructed s fun d => f d s := by
  intro s t a h
  beta_reduce at h ⊢
  rcases hd : s.daddr with _ | d
  · rw [whenConstructed_none hd] at h
    cases h
  · rw [whenConstructed_some hd] at h
    rw [whenConstructed_some (s := s.withCmdDaddr a) hd, hf d s t a h]

/-- A read ignores `cmd_daddr` where what follows it does; `g` is what is latched before it. -/
theorem ignoresCmdDaddr_busRead {g : State → State} {d : DeviceAddress} {r : Byte}
    {k : Byte → State → Out} (hg : ∀ s a, g (s.withCmdDaddr a) = (g s).withCmdDaddr a)
    (hk : ∀ v, IgnoresCmdDaddr (k v)) : IgnoresCmdDaddr fun s => busRead (g s) d r k := by
  intro s t a h
  beta_reduce at h ⊢
  rw [hg]
  rcases busRead_cases (g s) d r k with ⟨hr, e⟩ | ⟨v, rest, hr, e⟩ | ⟨e', rest, hr, e⟩ <;>
    rw [e] at h
  · cases h
    rw [busRead_nil (s := (g s).withCmdDaddr a) hr]
  · rw [busRead_byte (s := (g s).withCmdDaddr a) hr]
    exact hk v _ t a h
  · rw [transportError_eq] at h
    cases h
    rw [busRead_fail (s := (g s).withCmdDaddr a) hr]
    rfl

theorem execRdaxis_ignoresCmdDaddr (base : Byte) : IgnoresCmdDaddr (execRdaxis base) := by
  refine ignoresCmdDaddr_whenIdle ?_
  rcases highOffset base with _ | base1
  · exact ignoresCmdDaddr_refused _
  · refine ignoresCmdDaddr_whenConstructed fun d => ?_
    refine ignoresCmdDaddr_busRead (fun _ _ => rfl) fun low => ?_
    refine ignoresCmdDaddr_busRead (fun _ _ => rfl) fun high => ?_
    exact ignoresCmdDaddr_finish _

theorem readRange_ignoresCmdDaddr (raw : Bool) (respond : Byte → Payload) :
    IgnoresCmdDaddr (readRange raw respond) := by
  refine ignoresCmdDaddr_whenIdle (ignoresCmdDaddr_whenConstructed fun d => ?_)
  refine ignoresCmdDaddr_busRead (fun _ _ => rfl) fun b => ?_
  exact ignoresCmdDaddr_finish _

theorem readAccel_ignoresCmdDaddr (u : AccelUnits) : IgnoresCmdDaddr (readAccel u) := by
  refine ignoresCmdDaddr_whenIdle (ignoresCmdDaddr_whenConstructed fun d => ?_)
  refine ignoresCmdDaddr_busRead (fun _ _ => rfl) fun xl => ?_
  refine ignoresCmdDaddr_busRead (fun _ _ => rfl) fun xh => ?_
  refine ignoresCmdDaddr_busRead (fun _ _ => rfl) fun yl => ?_
  refine ignoresCmdDaddr_busRead (fun _ _ => rfl) fun yh => ?_
  refine ignoresCmdDaddr_busRead (fun _ _ => rfl) fun zl => ?_
  refine ignoresCmdDaddr_busRead (fun _ _ => rfl) fun zh => ?_
  refine ignoresCmdDaddr_busRead (fun _ _ => rfl) fun b => ?_
  exact ignoresCmdDaddr_next fun _ _ => rfl

theorem exec_ignoresCmdDaddr {i : Instr} (hi : i ≠ .init) : IgnoresCmdDaddr (exec i) := by
  cases i with
  | init => exact absurd rfl hi
  | rdaxis base => exact execRdaxis_ignoresCmdDaddr base
  | rdrangeDec | rdrangeRaw => exact readRange_ignoresCmdDaddr _ _
  | rdaccelG | rdaccelMs2 => exact readAccel_ignoresCmdDaddr _
  | unpack | decrange | scale =>
    exact ignoresCmdDaddr_whenIdle (ignoresCmdDaddr_next fun _ _ => rfl)

/-- Settles O56: INIT by the step that accepts it and the step that takes the acknowledgement, the
other commands by `IgnoresCmdDaddr`. -/
theorem cmdDaddrOnlyForInit : Obligations.CmdDaddrOnlyForInit := by
  refine ⟨fun s o ht hr hp hd hport hdec => ?_, fun i s t a hi h => exec_ignoresCmdDaddr hi s t a h⟩
  have hissued : issued ((s.pass.accept o).enter (.init o.daddr)) =
      some (.write o.daddr 0x20 0x1F) := rfl
  refine ⟨(s.pass.accept o).enter (.init o.daddr), ?_, hissued, fun later more => ⟨?_, fun r => ?_⟩⟩
  · rw [step_sequencer ht, sequencerStep_command (s := s.pass) hr hp hport hdec]
    exact execInit_accept o hp hd
  · obtain ⟨u, hu, hdaddr, _⟩ := step_i0_ack (s := { (s.pass.accept o).enter (.init o.daddr) with
      turn := .sequencer, cmdDaddr := later, writes := .ack :: more }) rfl hr rfl rfl rfl
    exact ⟨u, hu, hdaddr⟩
  · rw [busAct_ack hissued rfl]
    exact step_i0_ack rfl hr rfl rfl rfl

end Sys2Proof.Machine
end

section
/-! The datapath functions (spec/40_datapath.md R60, R62, R64): each in the numbers of its rule. -/

namespace Sys2Proof.Machine

/-! ### The register unpacker -/

/-- `(high << 8) | low` adds, since `low` fills only the bits the shift left empty (R60). -/
theorem combined_eq (low high : Byte) : combined low high = high.toNat * 256 + low.toNat := by
  rw [combined, ← Nat.shiftLeft_add_eq_or_of_lt low.isLt, Nat.shiftLeft_eq]

theorem unpackInt_eq (low high : Byte) :
    unpackInt low high =
      if high.toNat * 256 + low.toNat ≥ 32768 then
        ((high.toNat * 256 + low.toNat : Nat) : Int) - 65536
      else ((high.toNat * 256 + low.toNat : Nat) : Int) := by
  rw [unpackInt, combined_eq]

/-- The sign correction brings the integer into the range of a 16-bit register (R53). -/
theorem unpackInt_bounds (low high : Byte) :
    -32768 ≤ unpackInt low high ∧ unpackInt low high < 32768 := by
  have hlow := low.isLt
  have hhigh := high.isLt
  rw [unpackInt_eq]
  split <;> omega

/-- The result register loses nothing of the integer (R60, R53). -/
theorem unpack16_toInt (low high : Byte) : (unpack16 low high).toInt = unpackInt low high := by
  obtain ⟨hmin, hmax⟩ := unpackInt_bounds low high
  exact BitVec.toInt_ofInt_eq_self (by decide) hmin hmax

/-- Settles O17: the register holds the integer, which is the rule's since shift and or add. -/
theorem unpackSignCorrection : Obligations.UnpackSignCorrection := fun low high =>
  (unpack16_toInt low high).trans (unpackInt_eq low high)

/-! ### The range decode -/

theorem rangeCode_rangeDecode (b : Byte) :
    rangeCode (rangeDecode b) =
      if b = 0x00 then 2 else if b = 0x08 then 4 else if b = 0x10 then 6
        else if b = 0x18 then 8 else if b = 0x20 then 16 else -1 := by
  simp only [rangeDecode, apply_ite rangeCode]
  rfl

theorem rangeDecode_eq_unknown_iff (b : Byte) :
    rangeDecode b = .unknown ↔ b ∉ [0x00, 0x08, 0x10, 0x18, 0x20] := by
  constructor
  · have known : ∀ b ∈ [(0x00 : Byte), 0x08, 0x10, 0x18, 0x20], rangeDecode b ≠ .unknown := by
      decide
    exact fun h hb => known b hb h
  · intro h
    simp only [List.mem_cons, List.not_mem_nil, or_false, not_or] at h
    obtain ⟨h2g, h4g, h6g, h8g, h16g⟩ := h
    simp only [rangeDecode, h2g, h4g, h6g, h8g, h16g, if_false]

/-- Settles O19: the code of each of the five bytes, and the bytes decoded to `Unknown`. -/
theorem rangeDecodeTable : Obligations.RangeDecodeTable := fun b =>
  ⟨rangeCode_rangeDecode b, rangeDecode_eq_unknown_iff b⟩

/-! ### The scale modifier -/

theorem fconst_16384 : fconst 16384 1 = 0x40D0000000000000 := by decide +kernel

/-- The ±6g modifier, from its decimal literal 5461.33333 (R64, N17). -/
theorem scaleModifier_6g : scaleModifier 0x10 = 0x40B55555551D68C7 := by decide +kernel

/-- A byte that is none of the four with a modifier of their own has that of ±2g (R64, R107). -/
theorem scaleModifier_fallback {b : Byte} (h : b ∉ [(0x08 : Byte), 0x10, 0x18, 0x20]) :
    scaleModifier b = fconst 16384 1 := by
  simp only [List.mem_cons, List.not_mem_nil, or_false, not_or] at h
  obtain ⟨h4g, h6g, h8g, h16g⟩ := h
  simp only [scaleModifier, h4g, h6g, h8g, h16g, if_false, ite_self]

end Sys2Proof.Machine
end

section
/-! The pure commands (spec/40_datapath.md R68 to R70), and the bus commands that answer the same
(R76, R77). -/

namespace Sys2Proof.Machine

variable {s : State}

/-! ### The pure commands in `IDLE` -/

theorem exec_unpack (hp : s.phase = .idle) (low high : Byte) :
    exec (.unpack low high) s = .next (s.deliver (.ok (.sample (unpack16 low high)))) :=
  whenIdle_idle hp _

theorem exec_decrange (hp : s.phase = .idle) (byte : Byte) :
    exec (.decrange byte) s = .next (s.deliver (.ok (.decoded (rangeDecode byte)))) :=
  whenIdle_idle hp _

theorem exec_scale (hp : s.phase = .idle) (byte : Byte) :
    exec (.scale byte) s = .next (s.deliver (.ok (.modifier (scaleModifier byte)))) :=
  whenIdle_idle hp _

/-! ### The bus commands on successful reads -/

section Constructed

variable {d : DeviceAddress} {rest : List ReadReply}

/-- RDAXIS whose two reads return a byte (R76). -/
theorem execRdaxis_bytes {base low high : Byte} (hb : base ≠ 0xFF) (hp : s.phase = .idle)
    (hd : s.daddr = some d) (hr : s.reads = .byte low :: .byte high :: rest) :
    execRdaxis base s =
      .next { s.quiet with
        reads := rest
        trace := s.trace ++ [.read d base (.byte low), .read d (base + 1) (.byte high)]
        rsp := s.rsp ++ [.ok (.sample (unpack16 low high))] } := by
  simp only [execRdaxis, whenIdle_idle hp, highOffset_of_ne hb, whenConstructed_some hd]
  rw [busRead_byte (by simpa using hr), busRead_byte rfl, finish_eq]
  rw [List.append_cons s.trace]
  rfl

/-- RDRANGE, in either form, whose read returns a byte (R77, R78). -/
theorem readRange_byte {raw : Bool} {respond : Byte → Payload} {b : Byte} (hp : s.phase = .idle)
    (hd : s.daddr = some d) (hr : s.reads = .byte b :: rest) :
    readRange raw respond s =
      .next { s.quiet with
        reads := rest, trace := s.trace ++ [.read d 0x24 (.byte b)]
        rsp := s.rsp ++ [.ok (respond b)] } := by
  simp only [readRange, whenIdle_idle hp, whenConstructed_some hd]
  rw [busRead_byte (by simpa using hr), finish_eq]
  rfl

end Constructed

/-! ### The obligations -/

@[simp] theorem wordFields_assembleFields (op m : BitVec 4) (b a : Byte) :
    wordFields (assembleFields op m b a) = (op, m, b, a) := by
  simp [wordFields]

/-- Settles O29: both commands deliver `unpack16 low high`, whose integer is that of R60. -/
theorem unpackCommandResponds : Obligations.UnpackCommandResponds := fun low high =>
  ⟨wordFields_assembleFields _ _ _ _, unpack16 low high, unpackSignCorrection low high,
    fun _ hp => exec_unpack hp low high,
    fun _ _ _ _ hp hd hb hr => ⟨_, execRdaxis_bytes hb hp hd hr, rfl⟩⟩

/-- Settles O30: both commands deliver `rangeDecode byte`, whose code is that of R62. -/
theorem decrangeCommandResponds : Obligations.DecrangeCommandResponds := fun byte =>
  ⟨wordFields_assembleFields _ _ _ _, rangeDecode byte, rangeCode_rangeDecode byte,
    fun _ hp => exec_decrange hp byte,
    fun _ _ _ hp hd hr => ⟨_, readRange_byte hp hd hr, rfl⟩⟩

/-- Settles O31: the command delivers `scaleModifier byte`; its two patterns by evaluation. -/
theorem scaleCommandResponds : Obligations.ScaleCommandResponds :=
  ⟨fun byte => ⟨wordFields_assembleFields _ _ _ _, fun _ hp => exec_scale hp byte⟩,
    scaleModifier_6g, fun _ h => (scaleModifier_fallback h).trans fconst_16384⟩

end Sys2Proof.Machine
end

section
/-! The bus commands (spec/41_bus_commands.md R75 to R80): what each answers where its transactions
succeed, and, for all of them at once, where one of its reads fails. -/

namespace Sys2Proof.Machine

section BusCommands

variable {s : State} {d : DeviceAddress}

/-! ### The end of a command that only reads -/

/-- A command begun in `s` has ended after the transactions `done` with the response `r`, and `rest`
is what it left of the replies (R81, R97, R126). -/
def State.endedAfter (s : State) (rest : List ReadReply) (done : List Transaction) (r : Response) :
    State :=
  { s.quiet with reads := rest, trace := s.trace ++ done, rsp := s.rsp ++ [r] }

variable {rest rest' : List ReadReply} {done : List Transaction} {r : Response}

/-- The transaction recorded before the others comes first. -/
@[simp] theorem endedAfter_record (x : Transaction) :
    ({ s with reads := rest' }.record x).endedAfter rest done r =
      s.endedAfter rest (x :: done) r := by
  simp only [State.endedAfter, State.record_trace, List.append_cons s.trace x done]
  rfl

/-! The working state of the command does not outlive it. -/

@[simp] theorem endedAfter_enter (c : Command) :
    (s.enter c).endedAfter rest done r = s.endedAfter rest done r := rfl

@[simp] theorem endedAfter_latchLo (v : Byte) (p : Phase) :
    (s.latchLo v p).endedAfter rest done r = s.endedAfter rest done r := rfl

@[simp] theorem endedAfter_latchS0 (v : Sample16) (p : Phase) :
    (s.latchS0 v p).endedAfter rest done r = s.endedAfter rest done r := rfl

@[simp] theorem endedAfter_latchS1 (v : Sample16) (p : Phase) :
    (s.latchS1 v p).endedAfter rest done r = s.endedAfter rest done r := rfl

@[simp] theorem endedAfter_latchS2 (v : Sample16) (p : Phase) :
    (s.latchS2 v p).endedAfter rest done r = s.endedAfter rest done r := rfl

@[simp] theorem endedAfter_latchRb (v : Byte) :
    (s.latchRb v).endedAfter rest done r = s.endedAfter rest done r := rfl

theorem finish_endedAfter (p : Payload) :
    finish s p = .next (s.endedAfter s.reads [] (.ok p)) := by
  simp only [finish_eq, State.endedAfter, List.append_nil]
  rfl

theorem transportError_endedAfter (e : TErr) :
    transportError s e = .next (s.endedAfter s.reads [] (.err e)) := by
  simp only [transportError_eq, State.endedAfter, List.append_nil]
  rfl

/-! ### A read that fails, at any place in a command -/

/-- `o` is the outcome at `s` of a command that reads `offsets` at `d`: whichever read fails first,
the command ends with its token, the reads before it done and none after it (R97). -/
def FailsInOrder (d : DeviceAddress) (offsets : List Byte) (s : State) (o : Out) : Prop :=
  ∀ (pre : List Byte) (r : Byte) (e : TErr) (rest : List ReadReply),
    offsets[pre.length]? = some r → s.reads = pre.map .byte ++ .fail e :: rest →
    o = .next (s.endedAfter rest (readsDone d offsets pre ++ [.read d r (.fail e)]) (.err e))

theorem failsInOrder_nil (s : State) (o : Out) : FailsInOrder d [] s o := by
  intro pre r e rest hr
  cases hr

/-- One read of a list: it fails, or it returns a byte and a later one fails. What is
latched before it plays no part. -/
theorem failsInOrder_busRead {u : State} {r : Byte} {offsets : List Byte}
    {k : Byte → State → Out} (hreads : u.reads = s.reads)
    (hend : ∀ rest done r, u.endedAfter rest done r = s.endedAfter rest done r)
    (hk : ∀ v w, FailsInOrder d offsets w (k v w)) :
    FailsInOrder d (r :: offsets) s (busRead u d r k) := by
  intro pre q e rest hq hs
  rw [← hreads] at hs
  rw [← hend]
  cases pre with
  | nil =>
    obtain rfl : r = q := by simpa using hq
    rw [busRead_fail hs, transportError_endedAfter, endedAfter_record]
    rfl
  | cons v pre =>
    rw [busRead_byte hs, hk v _ pre q e rest (by simpa using hq) rfl, endedAfter_record]
    rfl

theorem execRdaxis_failsInOrder {base : Byte} (hb : base ≠ 0xFF) (hp : s.phase = .idle)
    (hd : s.daddr = some d) : FailsInOrder d [base, base + 1] s (execRdaxis base s) := by
  simp only [execRdaxis, whenIdle_idle hp, highOffset_of_ne hb, whenConstructed_some hd]
  refine failsInOrder_busRead rfl (fun _ _ _ => rfl) fun low u => ?_
  refine failsInOrder_busRead rfl (fun _ _ _ => rfl) fun high u => ?_
  exact failsInOrder_nil _ _

theorem readRange_failsInOrder {raw : Bool} {respond : Byte → Payload} (hp : s.phase = .idle)
    (hd : s.daddr = some d) : FailsInOrder d [0x24] s (readRange raw respond s) := by
  simp only [readRange, whenIdle_idle hp, whenConstructed_some hd]
  refine failsInOrder_busRead rfl (fun _ _ _ => rfl) fun b u => ?_
  exact failsInOrder_nil _ _

theorem readAccel_failsInOrder {a : AccelUnits} (hp : s.phase = .idle) (hd : s.daddr = some d) :
    FailsInOrder d [0x28, 0x29, 0x2A, 0x2B, 0x2C, 0x2D, 0x24] s (readAccel a s) := by
  simp only [readAccel, whenIdle_idle hp, whenConstructed_some hd]
  refine failsInOrder_busRead rfl (fun _ _ _ => rfl) fun xl u => ?_
  refine failsInOrder_busRead rfl (fun _ _ _ => rfl) fun xh u => ?_
  refine failsInOrder_busRead rfl (fun _ _ _ => rfl) fun yl u => ?_
  refine failsInOrder_busRead rfl (fun _ _ _ => rfl) fun yh u => ?_
  refine failsInOrder_busRead rfl (fun _ _ _ => rfl) fun zl u => ?_
  refine failsInOrder_busRead rfl (fun _ _ _ => rfl) fun zh u => ?_
  refine failsInOrder_busRead rfl (fun _ _ _ => rfl) fun b u => ?_
  exact failsInOrder_nil _ _

/-- On a constructed block every legal command fails at the first of its reads that does (R97);
INIT and the pure commands read nothing. -/
theorem exec_failsInOrder {i : Instr} (hp : s.phase = .idle) (hd : s.daddr = some d)
    (hw : i.wellFormed = true) : FailsInOrder d (readOffsets i) s (exec i s) := by
  cases i with
  | rdaxis base => exact execRdaxis_failsInOrder (by simpa [Instr.wellFormed] using hw) hp hd
  | rdrangeDec | rdrangeRaw => exact readRange_failsInOrder hp hd
  | rdaccelG | rdaccelMs2 => exact readAccel_failsInOrder hp hd
  | init | unpack | decrange | scale => exact failsInOrder_nil _ _

/-! ### RDACCEL on successful reads -/

/-- RDACCEL, in either form, whose seven reads return a byte (R79, R80). -/
theorem readAccel_bytes {a : AccelUnits} {xl xh yl yh zl zh b : Byte} (hp : s.phase = .idle)
    (hd : s.daddr = some d) (hr : s.reads = [xl, xh, yl, yh, zl, zh, b].map .byte ++ rest) :
    readAccel a s = .next (s.endedAfter rest
      (readsDone d [0x28, 0x29, 0x2A, 0x2B, 0x2C, 0x2D, 0x24] [xl, xh, yl, yh, zl, zh, b])
      (.ok (accel (unpack16 xl xh) (unpack16 yl yh) (unpack16 zl zh) b a))) := by
  simp only [readAccel, whenIdle_idle hp, whenConstructed_some hd]
  rw [busRead_byte (by simpa using hr), busRead_byte rfl, busRead_byte rfl, busRead_byte rfl,
    busRead_byte rfl, busRead_byte rfl, busRead_byte rfl, finish_endedAfter]
  simp only [endedAfter_enter, endedAfter_latchLo, endedAfter_latchS0, endedAfter_latchS1,
    endedAfter_latchS2, endedAfter_latchRb, endedAfter_record]
  rfl

/-- The register unpacker puts the high byte above the low one (R61). -/
theorem unpack16_eq_append (low high : Byte) : unpack16 low high = high ++ low := by
  have hlow := low.isLt
  have hhigh := high.isLt
  apply BitVec.eq_of_toInt_eq
  rw [unpack16_toInt, unpackInt_eq, BitVec.toInt_eq_toNat_cond, BitVec.toNat_append,
    ← Nat.shiftLeft_add_eq_or_of_lt hlow, Nat.shiftLeft_eq]
  split <;> split <;> omega

/-! ### INIT on an unconstructed block -/

theorem execInit_ack {rest : List WriteReply} (hp : s.phase = .idle) (hd : s.daddr = none)
    (hw : s.writes = .ack :: rest) :
    execInit s =
      .next { s.quiet with
        daddr := some s.cmdDaddr, writes := rest
        trace := s.trace ++ [.write s.cmdDaddr 0x20 0x1F .ack]
        rsp := s.rsp ++ [.ok .unit] } := by
  simp only [execInit, whenIdle_idle hp, hd]
  rw [busWrite_ack (by simpa using hw), finish_eq]
  rfl

theorem execInit_fail {e : TErr} {rest : List WriteReply} (hp : s.phase = .idle)
    (hd : s.daddr = none) (hw : s.writes = .fail e :: rest) :
    execInit s =
      .next { s.quiet with
        writes := rest, trace := s.trace ++ [.write s.cmdDaddr 0x20 0x1F (.fail e)]
        rsp := s.rsp ++ [.err e] } := by
  simp only [execInit, whenIdle_idle hp, hd]
  rw [busWrite_fail (by simpa using hw), transportError_eq]
  rfl

/-! ### Refusals on an unconstructed block (R102 case 3) -/

theorem execRdaxis_unconstructed {base : Byte} (hb : base ≠ 0xFF) (hp : s.phase = .idle)
    (hd : s.daddr = none) : execRdaxis base s = .refused .unconstructed := by
  simp only [execRdaxis, whenIdle_idle hp, highOffset_of_ne hb, whenConstructed_none hd]

theorem readRange_unconstructed {raw : Bool} {respond : Byte → Payload} (hp : s.phase = .idle)
    (hd : s.daddr = none) : readRange raw respond s = .refused .unconstructed :=
  (whenIdle_idle hp _).trans (whenConstructed_none hd _)

theorem readAccel_unconstructed {a : AccelUnits} (hp : s.phase = .idle) (hd : s.daddr = none) :
    readAccel a s = .refused .unconstructed :=
  (whenIdle_idle hp _).trans (whenConstructed_none hd _)

end BusCommands

/-! ### The obligations -/

/-- Settles O32: INIT by the outcomes of its one write; a failed write leaves `daddr` empty, so
INIT is not refused again. -/
theorem initConstructs : Obligations.InitConstructs :=
  ⟨wordFields_assembleFields _ _ _ _, fun _ _ hp hd => execInit_constructed hp hd,
    fun _ _ hp hd hw => execInit_ack hp hd hw,
    fun _ _ _ hp hd hw => ⟨_, execInit_fail hp hd hw, rfl, hd, rfl, by simp [refusedCase, hd]⟩⟩

/-- Settles O33: the sample is `unpack16 low high`, whose integer is that of R60; a failure of a
read by `exec_failsInOrder`. -/
theorem rdaxisResponds : Obligations.RdaxisResponds := by
  refine fun base => ⟨wordFields_assembleFields _ _ _ _, fun s hp hor => ?_, fun hb => ?_⟩
  · by_cases hb : base = 0xFF
    · exact ⟨_, hb ▸ execRdaxis_ff hp⟩
    · exact ⟨_, execRdaxis_unconstructed hb hp (hor.resolve_right hb)⟩
  · have hw : (Instr.rdaxis base).wellFormed = true := by simpa [Instr.wellFormed] using hb
    refine ⟨base + 1, toNat_add_one_of_ne hb, fun s d low high rest hp hd hr => ?_,
      fun s d e rest hp hd hr => ?_, fun s d low e rest hp hd hr => ?_⟩
    · exact ⟨_, unpackSignCorrection low high, execRdaxis_bytes hb hp hd hr⟩
    · exact exec_failsInOrder hp hd hw [] base e rest rfl hr
    · exact exec_failsInOrder hp hd hw [low] (base + 1) e rest rfl hr

/-- Settles O34: the read succeeds, for every byte alike, or is the one that fails. -/
theorem rdrangeDecResponds : Obligations.RdrangeDecResponds :=
  ⟨wordFields_assembleFields _ _ _ _, fun _ hp hd => readRange_unconstructed hp hd,
    fun _ _ _ _ hp hd hr => readRange_byte hp hd hr,
    fun _ e _ rest hp hd hr => readRange_failsInOrder hp hd [] 0x24 e rest rfl hr⟩

/-- Settles O35: as for RDRANGE.DEC, with the byte itself for the payload. -/
theorem rdrangeRawResponds : Obligations.RdrangeRawResponds :=
  ⟨wordFields_assembleFields _ _ _ _, fun _ hp hd => readRange_unconstructed hp hd,
    fun _ _ _ _ hp hd hr => readRange_byte hp hd hr,
    fun _ e _ rest hp hd hr => readRange_failsInOrder hp hd [] 0x24 e rest rfl hr⟩

/-- Settles O36: the seven bytes by `readAccel_bytes`, with `unpack16` as a concatenation; a failure
at any of the seven by `readAccel_failsInOrder`. -/
theorem rdaccelGResponds : Obligations.RdaccelGResponds := by
  refine ⟨wordFields_assembleFields _ _ _ _, fun s hp hd => readAccel_unconstructed hp hd,
    fun s d xl xh yl yh zl zh b rest hp hd hr => ?_, fun s d pre r e rest hp hd hq hr => ?_⟩
  · simp only [← unpack16_eq_append]
    exact readAccel_bytes hp hd hr
  · rw [List.append_assoc]
    exact readAccel_failsInOrder hp hd pre r e rest hq hr

/-- Settles O37: both forms are `readAccel`; on the seven bytes they differ in `inUnits` only, and
where a read fails not at all. -/
theorem rdaccelMs2Responds : Obligations.RdaccelMs2Responds := by
  refine ⟨wordFields_assembleFields _ _ _ _, fun s hp hd => readAccel_unconstructed hp hd,
    fun s d xl xh yl yh zl zh b rest hp hd hr => ?_, fun s d pre e rest hp hd hlen hr => ?_⟩
  · exact ⟨_, _, _, _, rfl, readAccel_bytes hp hd hr, readAccel_bytes hp hd hr⟩
  · have hq : (readOffsets .rdaccelG)[pre.length]? = some _ := List.getElem?_eq_getElem hlen
    exact ⟨_, readAccel_failsInOrder hp hd pre _ e rest hq hr,
      readAccel_failsInOrder hp hd pre _ e rest hq hr, rfl⟩

end Sys2Proof.Machine
end

section
/-! A range byte that is none of the five (spec/60_exceptions.md R107): RDACCEL sees the byte
through its modifier alone. -/

namespace Sys2Proof.Machine

/-- The payload of RDACCEL depends on the range byte through its modifier alone (R66, R73). -/
theorem accel_eq_of_scaleModifier_eq {b b' : Byte} (h : scaleModifier b = scaleModifier b')
    (x y z : Sample16) (u : AccelUnits) : accel x y z b u = accel x y z b' u := by
  have hg : ∀ s, toG s b = toG s b' := fun s => by rw [toG, toG, h]
  cases u <;> simp only [accel, inUnits, toMs2, hg]

/-- A list of six, entry by entry. -/
theorem exists_of_length_eq_six {α : Type} {l : List α} (h : l.length = 6) :
    ∃ a b c d e f, l = [a, b, c, d, e, f] := by
  match l, h with
  | [a, b, c, d, e, f], _ => exact ⟨a, b, c, d, e, f, rfl⟩

/-- RDACCEL, in either form, delivers the same payload for two range bytes with one modifier. -/
theorem readAccel_rangeByte {s : State} {d : DeviceAddress} {a : AccelUnits} {pre : List Byte}
    {b b' : Byte} {rest : List ReadReply} (hb : scaleModifier b = scaleModifier b')
    (hp : s.phase = .idle) (hd : s.daddr = some d) (hlen : pre.length = 6)
    (hr : s.reads = pre.map .byte ++ .byte b :: rest) :
    ∃ t t' p, readAccel a s = .next t ∧
      readAccel a { s with reads := pre.map .byte ++ .byte b' :: rest } = .next t' ∧
      t.rsp = s.rsp ++ [.ok p] ∧ t'.rsp = s.rsp ++ [.ok p] := by
  obtain ⟨xl, xh, yl, yh, zl, zh, rfl⟩ := exists_of_length_eq_six hlen
  refine ⟨_, _, _, readAccel_bytes hp hd hr,
    readAccel_bytes (s := { s with reads := _ }) hp hd rfl, rfl, ?_⟩
  rw [accel_eq_of_scaleModifier_eq hb]
  rfl

/-- Settles O59: such a byte decodes to `Unknown` and has the modifier of 0x00, that of ±2g. -/
theorem unknownRangeIsNoError : Obligations.UnknownRangeIsNoError := by
  intro b hb
  have hdec : rangeDecode b = .unknown := (rangeDecode_eq_unknown_iff b).mpr hb
  have hmod : scaleModifier b = fconst 16384 1 :=
    scaleModifier_fallback fun h => hb (List.mem_cons_of_mem _ h)
  have hzero : scaleModifier 0x00 = fconst 16384 1 := scaleModifier_fallback (by decide)
  refine ⟨fun s hp => ⟨?_, ?_⟩, fun s d rest hp hd hr => ?_,
    fun i s d pre rest hi hp hd hlen hr => ?_⟩
  · rw [exec_decrange hp, hdec]
    rfl
  · rw [exec_scale hp, hmod, fconst_16384]
    rfl
  · exact ⟨_, readRange_byte hp hd hr, by rw [hdec]⟩
  · rcases hi with rfl | rfl
    all_goals exact readAccel_rangeByte (hmod.trans hzero.symm) hp hd hlen hr

end Sys2Proof.Machine
end

section
/-! The refused cases (spec/60_exceptions.md R102): the words and the commands refused at the port,
and why no row of the phase table is refused where the invariants of R22 hold. -/

namespace Sys2Proof

/-- A word the decoder rejects selects no row: with the fields of a row it would decode. -/
theorem noRow_of_decode_error {w : CommandWord} {e : DecodeError} (h : decode w = .error e) :
    ∀ r ∈ commandTable, r.selects w = false := by
  rw [noRow_iff]
  simp only [decode, byModifier, needModZero, needBZero, needAZero] at h
  generalize fieldOp w = op, fieldMod w = m, fieldB w = b, fieldA w = a at h ⊢
  and_intros
  all_goals
    rintro ⟨rfl, hfields⟩
    simp [hfields] at h

end Sys2Proof
namespace Sys2Proof.Machine

/-! ### Refusals at the command port -/

/-- R102 cases 2 to 4: which commands are refused, by the command and `daddr`. -/
theorem exists_refusedCase_iff (i : Instr) (s : State) :
    (∃ r, refusedCase i s = some r) ↔
      i = .rdaxis 0xFF ∨ (s.daddr = none ∧ readOffsets i ≠ []) ∨ (s.daddr ≠ none ∧ i = .init) := by
  cases i with
  | init | rdrangeDec | rdrangeRaw | rdaccelG | rdaccelMs2 =>
    rcases hd : s.daddr with _ | d <;> simp [refusedCase, readOffsets, hd]
  | rdaxis base =>
    by_cases hb : base = 255#8
    · simp [refusedCase, hb]
    · rcases hd : s.daddr with _ | d <;> simp [refusedCase, readOffsets, hb, hd]
  | unpack | decrange | scale => simp [refusedCase, readOffsets]

/-- A command just accepted is refused exactly in its refused case. -/
theorem exec_accept_refused_iff {s : State} (hp : s.phase = .idle) (i : Instr) (o : Offer)
    (r : Refusal) : exec i (s.accept o) = .refused r ↔ refusedCase i s = some r := by
  rcases exec_accept_cases i o hp with ⟨q, hq, e⟩ | ⟨hq, _, _, e⟩ | ⟨hq, _, _, _, _, _, e⟩ <;>
    simp [hq, e]

/-- The step that accepts a command answers its refused case. -/
theorem step_refused_of_refusedCase {s : State} {o : Offer} {i : Instr} {r : Refusal}
    (ht : s.turn = .sequencer) (hr : s.rst = false) (hp : s.phase = .idle)
    (hport : s.port = some o) (hdec : decode o.word = .ok i) (hx : refusedCase i s = some r) :
    step s = .refused r := by
  rw [step_sequencer ht, sequencerStep_command (s := s.pass) hr hp hport hdec]
  exact (exec_accept_refused_iff (s := s.pass) hp i o r).mpr hx

/-! ### A command in progress is not refused -/

section InProgress

variable {s : State}

/-- A read of a phase answers a next state where the address is held and what follows it does. -/
theorem exists_phaseRead_next {r : Byte} {k : Byte → State → Out} (hd : s.daddr.isSome = true)
    (hk : ∀ d v rest, ∃ t,
      k v ({ s with reads := rest }.record (.read d r (.byte v))) = .next t) :
    ∃ t, phaseRead s r k = .next t := by
  obtain ⟨d, hd⟩ := Option.isSome_iff_exists.mp hd
  rw [phaseRead_some hd]
  rcases busRead_cases s d r k with ⟨_, e⟩ | ⟨v, rest, _, e⟩ | ⟨_, _, _, e⟩
  · exact ⟨_, e⟩
  · exact e ▸ hk d v rest
  · exact ⟨_, e⟩

/-- A row that pairs a high byte with `LO` does so where `LO` holds a value. -/
theorem exists_withSample_next {high : Byte} {k : Sample16 → Out} (hl : s.lo.isSome = true)
    (hk : ∀ x, ∃ t, k x = .next t) : ∃ t, withSample s high k = .next t := by
  obtain ⟨low, hl⟩ := Option.isSome_iff_exists.mp hl
  exact withSample_held hl high k ▸ hk _

/-- Phase C6 ends the command where its four registers hold values. -/
theorem exists_finishAccel_next {u : AccelUnits} (h0 : s.s0.isSome = true)
    (h1 : s.s1.isSome = true) (h2 : s.s2.isSome = true) (hb : s.rb.isSome = true) :
    ∃ t, finishAccel s u = .next t := by
  obtain ⟨x, h0⟩ := Option.isSome_iff_exists.mp h0
  obtain ⟨y, h1⟩ := Option.isSome_iff_exists.mp h1
  obtain ⟨z, h2⟩ := Option.isSome_iff_exists.mp h2
  obtain ⟨b, hb⟩ := Option.isSome_iff_exists.mp hb
  exact ⟨_, finishAccel_held h0 h1 h2 hb⟩

/-- The row of INIT always answers a next state. -/
theorem exists_phaseStep_i0_next {a : DeviceAddress} (hp : s.phase = .i0)
    (hc : s.cmd = some (.init a)) : ∃ t, phaseStep s = .next t := by
  rw [phaseStep_i0 hp hc]
  rcases busWrite_cases s a Config.regCtrl4 Config.initValue
    (fun t => finish (t.construct a) .unit) with ⟨_, e⟩ | ⟨_, _, e⟩ | ⟨_, _, _, e⟩
  all_goals exact ⟨_, e⟩

/-- Where the invariants hold every row of the phase table answers a next state: the phase is one of
the command, which is legal, and the address and the registers that the row reads hold values
(R22). -/
theorem exists_phaseStep_next (h : s.Inv) : ∃ t, phaseStep s = .next t := by
  obtain ⟨⟨hidle, -⟩, ⟨hread, -⟩, ⟨hlo, hs0, hs1, hs2⟩, hfits⟩ := h
  rcases hc : s.cmd with _ | c
  · exact ⟨s, phaseStep_idle (hidle.mpr hc) hc⟩
  obtain ⟨hphase, hlegal⟩ := hfits c hc
  cases c with
  | init a => exact exists_phaseStep_i0_next (by simpa [Command.phases] using hphase) hc
  | rdaxis base =>
    have hb : base ≠ 0xFF := by simpa [Command.legal] using hlegal
    simp only [Command.phases, List.mem_cons, List.not_mem_nil, or_false] at hphase
    rcases hphase with hp | hp <;> simp only [hp] at hread hlo
    · rw [phaseStep_a0 hp hc]
      exact exists_phaseRead_next (hread rfl) fun _ _ _ => ⟨_, rfl⟩
    · rw [phaseStep_a1 hp hc, phaseReadHigh_of_ne hb]
      exact exists_phaseRead_next (hread rfl) fun _ _ _ =>
        exists_withSample_next (hlo (by decide)) fun _ => ⟨_, rfl⟩
  | rdrange raw =>
    have hp : s.phase = .g0 := by simpa [Command.phases] using hphase
    rw [phaseStep_g0 hp hc]
    exact exists_phaseRead_next (hread (by rw [hp]; rfl)) fun _ _ _ => ⟨_, rfl⟩
  | rdaccel u =>
    simp only [Command.phases, List.mem_cons, List.not_mem_nil, or_false] at hphase
    rcases hphase with hp | hp | hp | hp | hp | hp | hp <;> simp only [hp] at hread hlo hs0 hs1 hs2
    · rw [phaseStep_c0 hp hc]
      exact exists_phaseRead_next (hread rfl) fun _ _ _ => ⟨_, rfl⟩
    · rw [phaseStep_c1 hp hc]
      exact exists_phaseRead_next (hread rfl) fun _ _ _ =>
        exists_withSample_next (hlo (by decide)) fun _ => ⟨_, rfl⟩
    · rw [phaseStep_c2 hp hc]
      exact exists_phaseRead_next (hread rfl) fun _ _ _ => ⟨_, rfl⟩
    · rw [phaseStep_c3 hp hc]
      exact exists_phaseRead_next (hread rfl) fun _ _ _ =>
        exists_withSample_next (hlo (by decide)) fun _ => ⟨_, rfl⟩
    · rw [phaseStep_c4 hp hc]
      exact exists_phaseRead_next (hread rfl) fun _ _ _ => ⟨_, rfl⟩
    · rw [phaseStep_c5 hp hc]
      exact exists_phaseRead_next (hread rfl) fun _ _ _ =>
        exists_withSample_next (hlo (by decide)) fun _ => ⟨_, rfl⟩
    · rw [phaseStep_c6 hp hc]
      exact exists_phaseRead_next (hread rfl) fun _ _ _ =>
        exists_finishAccel_next (hs0 (by decide)) (hs1 (by decide)) (hs2 trivial) rfl

end InProgress

/-! ### The refused step -/

/-- A step that is refused, where the invariants hold: `rst` during a command, a word the decoder
rejects, or a command in its refused case (R102). -/
theorem step_refused_cases {s : State} {r : Refusal} (hinv : s.Inv) (h : step s = .refused r) :
    (s.rst = true ∧ s.phase ≠ .idle) ∨
    (s.phase = .idle ∧ ∃ o, s.port = some o ∧
      ((∃ e, decode o.word = .error e) ∨
        ∃ i, decode o.word = .ok i ∧ ∃ r, refusedCase i s = some r)) := by
  rcases ht : s.turn
  case host => cases (step_host ht).symm.trans h
  case bus => cases (step_bus ht).symm.trans h
  rw [step_sequencer ht] at h
  rcases sequencerStep_cases s.pass with ⟨hr, e⟩ | ⟨_, _, e⟩ | ⟨_, _, _, e⟩ |
    ⟨o, e', _, hp, hport, hdec, e⟩ | ⟨o, i, _, hp, hport, hdec, e⟩ <;> rw [e] at h
  · refine .inl ⟨hr, fun hp => ?_⟩
    cases (onReset_idle (s := s.pass) hp).symm.trans h
  · obtain ⟨t, ht⟩ := exists_phaseStep_next (s := s.pass) hinv
    cases ht.symm.trans h
  · cases h
  · exact .inr ⟨hp, o, hport, .inl ⟨e', hdec⟩⟩
  · exact .inr ⟨hp, o, hport, .inr ⟨i, hdec, r, (exec_accept_refused_iff hp i o r).mp h⟩⟩

/-- Settles O45: what a refused step can be by `step_refused_cases`, the refused commands by
`exists_refusedCase_iff`, both ways. -/
theorem refusedInTheListedCases : Obligations.RefusedInTheListedCases := by
  refine ⟨fun s r hinv h => ?_, fun s ht hr hp => ?_, fun s o ht hr hp hport => ?_⟩
  · rcases step_refused_cases hinv h with hbusy | ⟨hp, o, hport, ⟨e, he⟩ | ⟨i, hi, hx⟩⟩
    · exact .inl hbusy
    · exact .inr ⟨hp, o, hport, .inl (noRow_of_decode_error he)⟩
    · refine .inr ⟨hp, o, hport, .inr ?_⟩
      rcases (exists_refusedCase_iff i s).mp hx with rfl | ⟨hd, hro⟩ | ⟨hd, rfl⟩
      · exact .inl hi
      · exact .inr (.inl ⟨hd, i, hi, hro⟩)
      · exact .inr (.inr ⟨hd, hi⟩)
  · exact ⟨_, (step_sequencer ht).trans
      ((sequencerStep_rst (s := s.pass) hr).trans (onReset_busy (s := s.pass) hp))⟩
  · have refused {i : Instr} (hi : decode o.word = .ok i)
        (hcase : i = .rdaxis 0xFF ∨ (s.daddr = none ∧ readOffsets i ≠ []) ∨
          (s.daddr ≠ none ∧ i = .init)) : ∃ r, step s = .refused r :=
      ((exists_refusedCase_iff i s).mpr hcase).imp fun _ hx =>
        step_refused_of_refusedCase ht hr hp hport hi hx
    refine ⟨fun hrow => ?_, fun hi => refused hi (.inl rfl),
      fun i hi hro hd => refused hi (.inr (.inl ⟨hd, hro⟩)),
      fun d hi hd => refused hi (.inr (.inr ⟨by simp [hd], rfl⟩))⟩
    obtain ⟨e, he⟩ := decode_error_of_noRow hrow
    exact ⟨_, (step_sequencer ht).trans (sequencerStep_reserved (s := s.pass) hr hp hport he)⟩

end Sys2Proof.Machine
end

section
/-! The transaction outstanding (spec/60_exceptions.md R97, R103): the row that takes it, what its
failure does, and what does not happen while it is unanswered. -/

namespace Sys2Proof.Machine

section Outstanding

variable {s : State} {d : DeviceAddress} {r v : Byte}

/-- A phase that has issued a read takes it. -/
theorem phaseRead_of_issued {q : Byte}
    (h : s.daddr.map (fun a => Request.read a q) = some (.read d r))
    (k : Byte → State → Out) : phaseRead s q k = busRead s d r k := by
  obtain ⟨d', hd, hq⟩ := Option.map_eq_some_iff.mp h
  cases hq
  exact phaseRead_some hd _ k

/-- The row of a phase in which a read is outstanding takes that read. -/
theorem phaseStep_of_issued_read (h : issued s = some (.read d r)) :
    ∃ k, phaseStep s = busRead s d r k := by
  unfold issued at h
  split at h
  case h_1 => cases h
  case h_2 hp hc => exact ⟨_, (phaseStep_a0 hp hc).trans (phaseRead_of_issued h _)⟩
  case h_3 hp hc =>
    rw [phaseStep_a1 hp hc]
    split at h <;> cases h
    next hd hh => exact ⟨_, by rw [phaseReadHigh, hh]; exact phaseRead_some hd _ _⟩
  case h_4 hp hc => exact ⟨_, (phaseStep_g0 hp hc).trans (phaseRead_of_issued h _)⟩
  case h_5 hp hc => exact ⟨_, (phaseStep_c0 hp hc).trans (phaseRead_of_issued h _)⟩
  case h_6 hp hc => exact ⟨_, (phaseStep_c1 hp hc).trans (phaseRead_of_issued h _)⟩
  case h_7 hp hc => exact ⟨_, (phaseStep_c2 hp hc).trans (phaseRead_of_issued h _)⟩
  case h_8 hp hc => exact ⟨_, (phaseStep_c3 hp hc).trans (phaseRead_of_issued h _)⟩
  case h_9 hp hc => exact ⟨_, (phaseStep_c4 hp hc).trans (phaseRead_of_issued h _)⟩
  case h_10 hp hc => exact ⟨_, (phaseStep_c5 hp hc).trans (phaseRead_of_issued h _)⟩
  case h_11 hp hc => exact ⟨_, (phaseStep_c6 hp hc).trans (phaseRead_of_issued h _)⟩
  case h_12 => cases h

/-- The row of the phase in which a write is outstanding takes that write. -/
theorem phaseStep_of_issued_write (h : issued s = some (.write d r v)) :
    ∃ k, phaseStep s = busWrite s d r v k := by
  unfold issued at h
  split at h
  case h_1 hp hc =>
    cases h
    exact ⟨_, phaseStep_i0 hp hc⟩
  case h_3 => split at h <;> cases h
  case h_12 => cases h
  all_goals
    obtain ⟨_, _, hq⟩ := Option.map_eq_some_iff.mp h
    cases hq

/-- In `IDLE` no transaction is outstanding (R13). -/
theorem phase_ne_idle_of_issued {q : Request} (h : issued s = some q) : s.phase ≠ .idle := by
  intro hp
  simp [issued, hp] at h

/-- During a command a step of the sequencer is a row of the phase table. -/
theorem step_busy (ht : s.turn = .sequencer) (hr : s.rst = false) (hp : s.phase ≠ .idle) :
    step s = phaseStep s.pass := by
  rw [step_sequencer ht]
  exact sequencerStep_busy hr hp

/-- A read outstanding that fails ends the command in the sequencer's step (R97). -/
theorem step_read_fail {e : TErr} {rest : List ReadReply} (ht : s.turn = .sequencer)
    (hr : s.rst = false) (hi : issued s = some (.read d r)) (hf : s.reads = .fail e :: rest) :
    step s = .next { s.pass.quiet with
      reads := rest, trace := s.trace ++ [.read d r (.fail e)], rsp := s.rsp ++ [.err e] } := by
  obtain ⟨k, hk⟩ := phaseStep_of_issued_read (s := s.pass) hi
  rw [step_busy ht hr (phase_ne_idle_of_issued hi), hk, busRead_fail (s := s.pass) hf]
  rfl

/-- The same for the write of INIT. -/
theorem step_write_fail {e : TErr} {rest : List WriteReply} (ht : s.turn = .sequencer)
    (hr : s.rst = false) (hi : issued s = some (.write d r v)) (hf : s.writes = .fail e :: rest) :
    step s = .next { s.pass.quiet with
      writes := rest, trace := s.trace ++ [.write d r v (.fail e)], rsp := s.rsp ++ [.err e] } := by
  obtain ⟨k, hk⟩ := phaseStep_of_issued_write (s := s.pass) hi
  rw [step_busy ht hr (phase_ne_idle_of_issued hi), hk, busWrite_fail (s := s.pass) hf]
  rfl

end Outstanding

/-- Settles O38: a command from `IDLE` by `exec_failsInOrder` and `execInit_fail`, a command in
progress by the row that takes the failure, which records it last. -/
theorem failedTransactionEndsCommand : Obligations.FailedTransactionEndsCommand := by
  refine ⟨fun i s d pre r e rest hp hd hw hq hs => ?_,
    fun s e rest hp hd hw => execInit_fail hp hd hw,
    fun s d r e rest ht hr hi hf => ?_, fun s d r v e rest ht hr hi hf => ?_⟩
  · rw [List.append_assoc]
    exact exec_failsInOrder hp hd hw pre r e rest hq hs
  · exact ⟨_, ⟨_, rfl⟩, List.getLast?_concat, step_read_fail ht hr hi hf⟩
  · exact ⟨_, ⟨_, rfl⟩, List.getLast?_concat, step_write_fail ht hr hi hf⟩

/-! ### A transaction that is not answered -/

section Waiting

variable {s t : State} {d : DeviceAddress} {r : Byte}

/-- A transaction is unanswered when no reply of its kind stands at the port. -/
theorem unanswered_iff :
    s.unanswered = true ↔
      (∃ d r, issued s = some (.read d r) ∧ s.reads = []) ∨
      (∃ d r v, issued s = some (.write d r v) ∧ s.writes = []) := by
  unfold State.unanswered
  rcases issued s with _ | _ | _ <;> simp

/-- What is outstanding depends on the phase, the command and the address alone. -/
theorem issued_congr (hp : t.phase = s.phase) (hc : t.cmd = s.cmd) (hd : t.daddr = s.daddr) :
    issued t = issued s := by
  simp only [issued, hp, hc, hd]

/-- The row of a transaction that is unanswered leaves the block where it is (R103). -/
theorem phaseStep_unanswered (h : s.unanswered = true) : phaseStep s = .next s := by
  rcases unanswered_iff.mp h with ⟨d, r, hi, hr⟩ | ⟨d, r, v, hi, hw⟩
  · obtain ⟨k, hk⟩ := phaseStep_of_issued_read hi
    exact hk.trans (busRead_nil hr d r k)
  · obtain ⟨k, hk⟩ := phaseStep_of_issued_write hi
    exact hk.trans (busWrite_nil hw d r v k)

theorem phase_ne_idle_of_unanswered (h : s.unanswered = true) : s.phase ≠ .idle := by
  rcases unanswered_iff.mp h with ⟨_, _, hi, _⟩ | ⟨_, _, _, hi, _⟩
  all_goals exact phase_ne_idle_of_issued hi

/-- `o` is the outcome of a command in progress in `s`, which reads `offsets` at `d` in `phases`:
where the replies run out before a read, the block waits in the phase of that read, with the reads
before it done and nothing delivered (R103). -/
def HangsInOrder (offsets : List Byte) (phases : List Phase) (d : DeviceAddress) (s : State)
    (o : Out) : Prop :=
  ∀ (pre : List Byte) (r : Byte), offsets[pre.length]? = some r → s.reads = pre.map .byte →
    ∃ t, o = .next t ∧ phases[pre.length]? = some t.phase ∧ t.cmd = s.cmd ∧ t.reads = [] ∧
      t.rsp = s.rsp ∧ t.daddr = s.daddr ∧ t.trace = s.trace ++ readsDone d offsets pre

theorem hangsInOrder_nil (o : Out) : HangsInOrder [] [] d s o := by
  intro pre r hr
  cases hr

/-- One read of a list: it is unanswered, or it returns a byte and a later one is unanswered. -/
theorem hangsInOrder_busRead {offsets : List Byte} {phases : List Phase} {k : Byte → State → Out}
    (hk : ∀ v w, HangsInOrder offsets phases d w (k v w)) :
    HangsInOrder (r :: offsets) (s.phase :: phases) d s (busRead s d r k) := by
  intro pre q hq hs
  cases pre with
  | nil => exact ⟨s, busRead_nil hs d r k, rfl, rfl, hs, rfl, rfl, (List.append_nil _).symm⟩
  | cons v pre =>
    rw [busRead_byte hs]
    obtain ⟨t, ho, hphase, hcmd, hreads, hrsp, hdaddr, htrace⟩ := hk v
      ({ s with reads := pre.map .byte }.record (.read d r (.byte v))) pre q (by simpa using hq) rfl
    refine ⟨t, ho, by simpa using hphase, hcmd, hreads, hrsp, hdaddr, ?_⟩
    rw [htrace, State.record_trace, ← List.append_cons]
    rfl

theorem execRdaxis_hangsInOrder {base : Byte} (hb : base ≠ 0xFF) (hp : s.phase = .idle)
    (hd : s.daddr = some d) :
    HangsInOrder [base, base + 1] [.a0, .a1] d (s.enter (.rdaxis base)) (execRdaxis base s) := by
  simp only [execRdaxis, whenIdle_idle hp, highOffset_of_ne hb, whenConstructed_some hd]
  refine hangsInOrder_busRead fun low u => ?_
  refine hangsInOrder_busRead (s := u.latchLo low .a1) fun high u => ?_
  exact hangsInOrder_nil _

theorem readRange_hangsInOrder {raw : Bool} {respond : Byte → Payload} (hp : s.phase = .idle)
    (hd : s.daddr = some d) :
    HangsInOrder [0x24] [.g0] d (s.enter (.rdrange raw)) (readRange raw respond s) := by
  simp only [readRange, whenIdle_idle hp, whenConstructed_some hd]
  refine hangsInOrder_busRead fun b u => ?_
  exact hangsInOrder_nil _

theorem readAccel_hangsInOrder {a : AccelUnits} (hp : s.phase = .idle) (hd : s.daddr = some d) :
    HangsInOrder [0x28, 0x29, 0x2A, 0x2B, 0x2C, 0x2D, 0x24] [.c0, .c1, .c2, .c3, .c4, .c5, .c6] d
      (s.enter (.rdaccel a)) (readAccel a s) := by
  simp only [readAccel, whenIdle_idle hp, whenConstructed_some hd]
  refine hangsInOrder_busRead fun xl u => ?_
  refine hangsInOrder_busRead (s := u.latchLo xl .c1) fun xh u => ?_
  refine hangsInOrder_busRead (s := u.latchS0 _ .c2) fun yl u => ?_
  refine hangsInOrder_busRead (s := u.latchLo yl .c3) fun yh u => ?_
  refine hangsInOrder_busRead (s := u.latchS1 _ .c4) fun zl u => ?_
  refine hangsInOrder_busRead (s := u.latchLo zl .c5) fun zh u => ?_
  refine hangsInOrder_busRead (s := u.latchS2 _ .c6) fun b u => ?_
  exact hangsInOrder_nil _

/-- On a constructed block every legal command that reads hangs at the first of its reads that is
not answered, with the command latched (R103). -/
theorem exec_hangsInOrder {i : Instr} (hne : readOffsets i ≠ []) (hw : i.wellFormed = true)
    (hp : s.phase = .idle) (hd : s.daddr = some d) :
    ∃ c, latchedCommand s.cmdDaddr i = some c ∧
      HangsInOrder (readOffsets i) (readPhases i) d (s.enter c) (exec i s) := by
  cases i with
  | rdaxis base =>
    exact ⟨_, rfl, execRdaxis_hangsInOrder (by simpa [Instr.wellFormed] using hw) hp hd⟩
  | rdrangeDec | rdrangeRaw => exact ⟨_, rfl, readRange_hangsInOrder hp hd⟩
  | rdaccelG | rdaccelMs2 => exact ⟨_, rfl, readAccel_hangsInOrder hp hd⟩
  | init | unpack | decrange | scale => exact absurd rfl hne

/-- The phase and the offset at one place of the lists of a command belong together: in that phase
the read of that offset is outstanding (R38, R81). -/
theorem issued_of_readPhases {i : Instr} {a : DeviceAddress} {c : Command} {n : Nat} {p : Phase}
    (hl : latchedCommand a i = some c) (hw : i.wellFormed = true)
    (hp : (readPhases i)[n]? = some p) (hr : (readOffsets i)[n]? = some r)
    (hph : s.phase = p) (hc : s.cmd = some c) (hd : s.daddr = some d) :
    issued s = some (.read d r) := by
  cases i with
  | rdaxis base =>
    cases hl
    have hb : base ≠ 0xFF := by simpa [Instr.wellFormed] using hw
    rcases n with _ | _ | n <;> cases hp <;> cases hr <;>
      simp [issued, hph, hc, hd, highOffset_of_ne hb]
  | rdrangeDec | rdrangeRaw =>
    cases hl
    rcases n with _ | n <;> cases hp
    cases hr
    simp [issued, hph, hc, hd, Config.regCtrl5]
  | rdaccelG | rdaccelMs2 =>
    cases hl
    rcases n with _ | _ | _ | _ | _ | _ | _ | n <;> cases hp <;> cases hr
    all_goals
      simp only [issued, hph, hc, hd]
      rfl
  | init | unpack | decrange | scale => cases hp

/-- INIT on an unconstructed block waits for its write to be answered (R75, R103). -/
theorem execInit_wait (hp : s.phase = .idle) (hd : s.daddr = none) (hw : s.writes = []) :
    execInit s = .next (s.enter (.init s.cmdDaddr)) := by
  simp only [execInit, whenIdle_idle hp, hd]
  exact busWrite_nil (s := s.enter _) hw _ _ _ _

/-- While a transaction is unanswered, a step of any agent changes only what stands at the ports of
the block: the offer, `rst`, the count of responses taken and the answers of the bus. -/
theorem step_unanswered (h : s.unanswered = true) (hs : step s = .next t) :
    ∃ p b k rs ws,
      t = { s.pass with port := p, rst := b, taken := k, reads := rs, writes := ws } := by
  have hbusy : s.phase ≠ .idle := phase_ne_idle_of_unanswered h
  rcases step_effect hs with ⟨_, p, b, k, rfl, _⟩ |
    ⟨_, rfl | ⟨_, _, _, _, r, rfl⟩ | ⟨_, _, _, _, _, w, rfl⟩⟩ | ⟨_, hseq⟩
  · exact ⟨p, b, k, _, _, rfl⟩
  · exact ⟨_, _, _, _, _, rfl⟩
  · exact ⟨_, _, _, r.toList, _, rfl⟩
  · exact ⟨_, _, _, _, w.toList, rfl⟩
  · have hrow : phaseStep s.pass = .next t := by
      rcases hseq with ⟨_, hp, _⟩ | ⟨_, _, hrow⟩ | ⟨_, hp, _⟩ | ⟨_, _, _, hp, _⟩ |
        ⟨_, _, _, _, hp, _⟩
      · exact absurd hp hbusy
      · exact hrow
      all_goals exact absurd hp hbusy
    cases (phaseStep_unanswered (s := s.pass) h).symm.trans hrow
    exact ⟨_, _, _, _, _, rfl⟩

end Waiting

/-- Settles O39: a command from `IDLE` by `exec_hangsInOrder` and `execInit_wait`, a step during an
unanswered transaction by `step_unanswered`. -/
theorem unansweredTransactionHangs : Obligations.UnansweredTransactionHangs := by
  refine ⟨fun i s d pre r hp hd hw hq hs => ?_, fun s hp hd hw => ?_,
    fun s h => ⟨fun ht hr => ?_, fun t hs => ?_⟩⟩
  · have hne : readOffsets i ≠ [] := fun e => by simp [e] at hq
    obtain ⟨c, hl, hangs⟩ := exec_hangsInOrder hne hw hp hd
    obtain ⟨t, ht, hphase, hcmd, hreads, hrsp, hdaddr, htrace⟩ := hangs pre r hq hs
    have hissued : issued t = some (.read d r) :=
      issued_of_readPhases hl hw hphase hq rfl hcmd (hdaddr.trans hd)
    exact ⟨t, ht, hphase, hissued, unanswered_iff.mpr (.inl ⟨d, r, hissued, hreads⟩), hrsp,
      hdaddr.trans hd, htrace⟩
  · exact ⟨_, execInit_wait hp hd hw, rfl, rfl, unanswered_iff.mpr (.inr ⟨_, _, _, rfl, hw⟩), rfl,
      hd, rfl⟩
  · rw [step_busy ht hr (phase_ne_idle_of_unanswered h)]
    exact phaseStep_unanswered (s := s.pass) h
  · obtain ⟨p, b, k, rs, ws, rfl⟩ := step_unanswered h hs
    exact ⟨issued_congr rfl rfl rfl, rfl, rfl, rfl, rfl, rfl, rfl, rfl, rfl, rfl, fun _ => rfl⟩

end Sys2Proof.Machine
end

section
/-! The `rst` input in the sequencer's turn (spec/70_reset_and_hazards.md R115, R116): the step is the
answer to `rst` alone, and the phase decides which of the two it is. -/

namespace Sys2Proof.Machine

section Reset

variable {s : State}

/-- With `rst` asserted the sequencer attends to nothing else: neither to the command in progress nor
to an offer at the port. -/
theorem step_rst (ht : s.turn = .sequencer) (hr : s.rst = true) : step s = onReset s.pass :=
  (step_sequencer ht).trans (sequencerStep_rst (s := s.pass) hr)

theorem step_rst_idle (ht : s.turn = .sequencer) (hr : s.rst = true) (hp : s.phase = .idle) :
    step s = .next s.pass.resetBlock :=
  (step_rst ht hr).trans (onReset_idle (s := s.pass) hp)

theorem step_rst_busy (ht : s.turn = .sequencer) (hr : s.rst = true) (hp : s.phase ≠ .idle) :
    step s = .refused .resetWhileBusy :=
  (step_rst ht hr).trans (onReset_busy (s := s.pass) hp)

end Reset

/-- Settles O14: the state answered is `s.pass.resetBlock`, by `step_rst_idle`, and the reset of the
block clears its own state and leaves the trace and the answers of the bus. -/
theorem rstInIdleResets : Obligations.RstInIdleResets := by
  intro s ht hr hp
  exact ⟨s.pass.resetBlock, step_rst_idle ht hr hp, by simp⟩

/-- Settles O16, by `step_rst_busy`. -/
theorem rstWhileBusyRefused : Obligations.RstWhileBusyRefused :=
  fun _ ht hr hp => step_rst_busy ht hr hp

end Sys2Proof.Machine
end

section
/-! Words and commands (spec/30_encoding.md R47, R48): encoding and decoding, and the rows that
select a word. -/

namespace Sys2Proof

/-- Settles O1, by evaluating the decoder on the eleven words. -/
theorem tabulatedWordsDecode : Obligations.TabulatedWordsDecode := by
  unfold Obligations.TabulatedWordsDecode
  decide

/-- The four fields that `encode` assembles lead the decoder back, operands included. -/
theorem decode_encode (i : Instr) : decode (encode i) = .ok i := by
  cases i with
  | init | rdrangeDec | rdrangeRaw | rdaccelG | rdaccelMs2 => decide
  | rdaxis | unpack | decrange | scale =>
    simp [encode, decode, needModZero, needBZero]

/-- Settles O2. -/
theorem decodeEncodeAgree : Obligations.DecodeEncodeAgree := decode_encode

/-- Settles O3: each branch of the decoder fixes all four fields. -/
theorem encodeDecodeAgree : Obligations.EncodeDecodeAgree := fun _ _ h => encode_of_decode h

/-- Settles O4: a word that a row selects is not rejected, by `noRow_of_decode_error`; a word that
decodes selects the row of its command. -/
theorem decodesExactlyTheRows : Obligations.DecodesExactlyTheRows := by
  intro w
  have hrow : ∀ i, decode w = .ok i → i.row ∈ commandTable ∧ i.row.selects w = true :=
    fun i hi => ⟨row_mem_commandTable i, row_selects_of_decode hi⟩
  refine ⟨⟨fun ⟨i, hi⟩ => ⟨i.row, hrow i hi⟩, fun ⟨r, hr, hsel⟩ => ?_⟩, hrow⟩
  rcases hd : decode w with e | i
  · cases (noRow_of_decode_error hd r hr).symm.trans hsel
  · exact ⟨i, rfl⟩

/-- Every row looks at the whole opcode and the whole modifier. -/
theorem fields_mask_of_mem_commandTable :
    ∀ r ∈ commandTable, fieldOp r.mask = BitVec.allOnes 4 ∧ fieldMod r.mask = BitVec.allOnes 4 := by
  decide

/-- No two rows share both opcode and modifier. -/
theorem row_eq_of_fields_eq :
    ∀ r ∈ commandTable, ∀ r' ∈ commandTable, fieldOp r.pattern = fieldOp r'.pattern →
      fieldMod r.pattern = fieldMod r'.pattern → r = r' := by
  decide

/-- A word has the opcode and the modifier of any row that selects it. -/
theorem fields_pattern_of_selects {r : Row} {w : CommandWord} (hr : r ∈ commandTable)
    (h : r.selects w = true) : fieldOp r.pattern = fieldOp w ∧ fieldMod r.pattern = fieldMod w := by
  obtain ⟨hop, hmod, -, -⟩ := (Row.selects_iff r w).mp h
  obtain ⟨mop, mmod⟩ := fields_mask_of_mem_commandTable r hr
  rw [mop, BitVec.and_allOnes] at hop
  rw [mmod, BitVec.and_allOnes] at hmod
  exact ⟨hop.symm, hmod.symm⟩

/-- Settles O5: both rows have the word's opcode and modifier, which determine the row. -/
theorem rowsDisjoint : Obligations.RowsDisjoint := by
  intro w r hr r' hr' h h'
  obtain ⟨hop, hmod⟩ := fields_pattern_of_selects hr h
  obtain ⟨hop', hmod'⟩ := fields_pattern_of_selects hr' h'
  exact row_eq_of_fields_eq r hr r' hr' (hop.trans hop'.symm) (hmod.trans hmod'.symm)

end Sys2Proof
end

section
/-! A step and a row of the phase table by cases with names: each proof about all steps, or all rows,
has one goal per way the next state arises (spec/00_scope.md R8; spec/41_bus_commands.md R81). -/

namespace Sys2Proof.Machine

section Elimination

variable {s t : State} {P : State → Prop}

/-- What holds of a block that waits, of one whose transaction failed, of one that INIT has constructed,
and of one that a byte has moved on or finished, holds after every row. -/
theorem phaseStep_elim (h : phaseStep s = .next t) (wait : P s)
    (readFailed : ∀ d r e rest, issued s = some (.read d r) → s.reads = .fail e :: rest →
      P (({ s with reads := rest }.record (.read d r (.fail e))).quiet.deliver (.err e)))
    (writeFailed : ∀ a e rest, s.phase = .i0 → s.cmd = some (.init a) →
      s.writes = .fail e :: rest →
      P (({ s with writes := rest }.record (.write a 0x20 0x1F (.fail e))).quiet.deliver (.err e)))
    (constructed : ∀ a rest, s.phase = .i0 → s.cmd = some (.init a) → s.writes = .ack :: rest →
      P ((({ s with writes := rest }.record (.write a 0x20 0x1F .ack)).construct a).quiet.deliver
        (.ok .unit)))
    (advanced : ∀ d r v rest lo s0 s1 s2 p, issued s = some (.read d r) → s.daddr = some d →
      s.reads = .byte v :: rest →
      P { { s with reads := rest }.record (.read d r (.byte v)) with
        lo := lo, s0 := s0, s1 := s1, s2 := s2, phase := p })
    (finished : ∀ d r v rest p, issued s = some (.read d r) → s.daddr = some d →
      s.reads = .byte v :: rest →
      P (({ s with reads := rest }.record (.read d r (.byte v))).quiet.deliver (.ok p))) : P t := by
  rcases phaseStep_effect h with rfl | ⟨d, r, e, rest, hi, hr, rfl⟩ |
    ⟨a, e, rest, hp, hc, hw, rfl⟩ | ⟨a, rest, hp, hc, hw, rfl⟩ |
    ⟨d, r, v, rest, hi, hd, hr, ⟨lo, s0, s1, s2, p, _, rfl⟩ | ⟨p, rfl⟩⟩
  · exact wait
  · exact readFailed d r e rest hi hr
  · exact writeFailed a e rest hp hc hw
  · exact constructed a rest hp hc hw
  · exact advanced d r v rest lo s0 s1 s2 p hi hd hr
  · exact finished d r v rest p hi hd hr

/-- What holds after every move of the host, every answer of the bus, and everything the sequencer does
in its turn, holds after every step. -/
theorem step_elim (h : step s = .next t)
    (host : ∀ p b k, s.turn = .host → (∀ o, s.port = some o → p = some o) →
      (s.taken ≤ s.rsp.length → k ≤ s.rsp.length) →
      P { s.pass with port := p, rst := b, taken := k })
    (silent : P s.pass)
    (readAnswered : ∀ d q (r : Option ReadReply), s.turn = .bus → issued s = some (.read d q) →
      P { s.pass with reads := r.toList })
    (writeAnswered : ∀ d q v (w : Option WriteReply), s.turn = .bus →
      issued s = some (.write d q v) → P { s.pass with writes := w.toList })
    (reset : s.turn = .sequencer → s.rst = true → s.phase = .idle → P s.pass.resetBlock)
    (row : ∀ t, s.turn = .sequencer → phaseStep s.pass = .next t → P t)
    (pure : ∀ o p, s.turn = .sequencer → s.phase = .idle →
      P ((s.pass.accept o).deliver (.ok p)))
    (accepted : ∀ o c, s.turn = .sequencer → s.phase = .idle → c.legal = true →
      (s.enter c).AddressFits → P ((s.pass.accept o).enter c)) : P t := by
  rcases step_effect h with ⟨ht, p, b, k, rfl, hport, _, hk⟩ |
    ⟨ht, rfl | ⟨d, q, hi, _, r, rfl⟩ | ⟨d, q, v, hi, _, w, rfl⟩⟩ |
    ⟨ht, ⟨hr, hp, rfl⟩ | ⟨_, _, hrow⟩ | ⟨_, _, rfl⟩ | ⟨o, i, _, hp, _, _, _, p, rfl⟩ |
      ⟨o, i, c, _, hp, _, _, _, _, hl, _, ha, rfl⟩⟩
  · exact host p b k ht hport hk
  · exact silent
  · exact readAnswered d q r ht hi
  · exact writeAnswered d q v w ht hi
  · exact reset ht hr hp
  · exact row t ht hrow
  · exact silent
  · exact pure o p ht hp
  · exact accepted o c ht hp hl ha

end Elimination

end Sys2Proof.Machine
end

section
/-! The invariants of R22 and what stands at the ports (spec/10_state.md section 5): kept by every row
of the phase table, by the acceptance of a command, and by the other agents. -/

namespace Sys2Proof.Machine

section Invariants

variable {s t u : State} {c : Command}

/-- Settles O47: nothing is in progress, held or answered after reset. -/
theorem resetMeetsInvariants : Obligations.ResetMeetsInvariants := by
  unfold Obligations.ResetMeetsInvariants
  decide

/-! ### States that meet the invariants -/

/-- A block that has ended its command, or was reset, meets them. -/
theorem inv_of_quiet (hp : s.phase = .idle) (hc : s.cmd = none) (hlo : s.lo = none)
    (h0 : s.s0 = none) (h1 : s.s1 = none) (h2 : s.s2 = none) (hb : s.rb = none) : s.Inv := by
  simp [State.Inv, State.IdleClean, State.AddressFits, State.HeldWhereRead, State.PhaseFits,
    Phase.reading, hp, hc, hlo, h0, h1, h2, hb]

theorem inv_quiet_deliver (s : State) (r : Response) : (s.quiet.deliver r).Inv :=
  inv_of_quiet rfl rfl rfl rfl rfl rfl rfl

/-- No command has `IDLE` among its phases. -/
theorem idle_notMem_phases (c : Command) : .idle ∉ c.phases := by
  cases c <;> simp [Command.phases]

/-- In progress the invariants are the fit of the phase to the command and what the phase needs. -/
theorem inv_of_busy (hc : s.cmd = some c) (hp : s.phase ∈ c.phases) (hl : c.legal = true)
    (ha : s.AddressFits) (hh : s.HeldWhereRead) : s.Inv := by
  have hidle : s.phase ≠ .idle := fun e => idle_notMem_phases c (e ▸ hp)
  refine ⟨⟨by simp [hidle, hc], fun e => absurd e hidle⟩, ha, hh, fun c' hc' => ?_⟩
  obtain rfl : c = c' := by simpa [hc] using hc'
  exact ⟨hp, hl⟩

/-- The first phase reads no holding register, so acceptance meets the invariants. -/
theorem inv_enter (hl : c.legal = true) (ha : (s.enter c).AddressFits) : (s.enter c).Inv := by
  refine inv_of_busy rfl ?_ hl ha ?_
  · cases c <;> simp [Command.firstPhase, Command.phases]
  · cases c <;> simp [State.HeldWhereRead, Command.firstPhase]

/-! ### Rows of the phase table -/

/-- A read of a phase: waiting keeps the invariants, a failure ends the command, and a byte leaves
them to what follows. -/
theorem inv_of_phaseRead {r : Byte} {k : Byte → State → Out} (hs : s.Inv)
    (hk : ∀ d v rest, s.daddr = some d →
      k v ({ s with reads := rest }.record (.read d r (.byte v))) = .next t → t.Inv)
    (h : phaseRead s r k = .next t) : t.Inv := by
  rcases hd : s.daddr with _ | d
  · cases (phaseRead_none hd r k).symm.trans h
  rw [phaseRead_some hd] at h
  rcases busRead_cases s d r k with ⟨_, e⟩ | ⟨v, rest, _, e⟩ | ⟨e', rest, _, e⟩ <;> rw [e] at h
  · cases h
    exact hs
  · exact hk d v rest hd h
  · cases h
    exact inv_quiet_deliver _ _

/-- A row that combines a high byte with `LO` keeps them where what follows does. -/
theorem inv_of_withSample {high : Byte} {k : Sample16 → Out} (hk : ∀ x, k x = .next t → t.Inv)
    (h : withSample u high k = .next t) : t.Inv := by
  rcases hl : u.lo with _ | low
  · simp [withSample, hl] at h
  · exact hk _ ((withSample_held hl high k).symm.trans h)

theorem inv_of_finish {p : Payload} (h : finish u p = .next t) : t.Inv := by
  cases h
  exact inv_quiet_deliver _ _

/-- Phase C6 finishes the command or lacks a register. -/
theorem finishAccel_cases (u : State) (a : AccelUnits) :
    (∃ p, finishAccel u a = finish u p) ∨ finishAccel u a = .fault .holdingUnwritten := by
  rcases h0 : u.s0 with _ | x
  · exact .inr (by simp [finishAccel, h0])
  rcases h1 : u.s1 with _ | y
  · exact .inr (by simp [finishAccel, h0, h1])
  rcases h2 : u.s2 with _ | z
  · exact .inr (by simp [finishAccel, h0, h1, h2])
  rcases hb : u.rb with _ | b
  · exact .inr (by simp [finishAccel, h0, h1, h2, hb])
  · exact .inl ⟨_, finishAccel_held h0 h1 h2 hb⟩

/-- A command that goes on to its next reading phase, on a constructed block. -/
theorem inv_of_reading {d : DeviceAddress} (hc : t.cmd = some c) (hl : c.legal = true)
    (hd : t.daddr = some d) (hp : t.phase ∈ c.phases) (hi : t.phase ≠ .i0)
    (hh : t.HeldWhereRead) : t.Inv :=
  inv_of_busy hc hp hl ⟨fun _ => by simp [hd], fun h => absurd h hi⟩ hh

/-- Every row of the phase table keeps the invariants: a row that latches a byte or a sample goes to
the phase that reads what is held now, every other row waits or ends the command. -/
theorem inv_of_phaseStep (hs : s.Inv) (h : phaseStep s = .next t) : t.Inv := by
  have ⟨_, _, ⟨_, hs0, hs1, hs2⟩, hfits⟩ := hs
  unfold phaseStep at h
  split at h
  case h_1 =>
    cases h
    exact hs
  case h_2 a hp hc =>
    rcases busWrite_cases s a Config.regCtrl4 Config.initValue
      (fun t => finish (t.construct a) .unit) with ⟨_, e⟩ | ⟨rest, _, e⟩ | ⟨e', rest, _, e⟩ <;>
      rw [e] at h
    · cases h
      exact hs
    · exact inv_of_finish h
    · cases h
      exact inv_quiet_deliver _ _
  case h_3 base hp hc =>
    refine inv_of_phaseRead hs (fun d v rest hd h => ?_) h
    cases h
    exact inv_of_reading hc (hfits _ hc).2 hd (by simp [Command.phases]) (by simp)
      (by simp [State.HeldWhereRead])
  case h_4 base hp hc =>
    rcases hh : highOffset base with _ | base1
    · simp [phaseReadHigh, hh] at h
    · simp only [phaseReadHigh, hh] at h
      exact inv_of_phaseRead hs (fun _ _ _ _ => inv_of_withSample fun _ => inv_of_finish) h
  case h_5 raw hp hc => exact inv_of_phaseRead hs (fun _ _ _ _ => inv_of_finish) h
  case h_12 u hp hc =>
    refine inv_of_phaseRead hs (fun d v rest _ h => ?_) h
    rcases finishAccel_cases _ u with ⟨p, e⟩ | e
    · exact inv_of_finish (e.symm.trans h)
    · cases e.symm.trans h
  case h_13 => cases h
  case h_6 u hp hc | h_8 u hp hc | h_10 u hp hc =>
    refine inv_of_phaseRead hs (fun d v rest hd h => ?_) h
    cases h
    refine inv_of_reading hc rfl hd (by simp [Command.phases]) (by simp) ?_
    simp_all [State.HeldWhereRead]
  case h_7 u hp hc | h_9 u hp hc | h_11 u hp hc =>
    refine inv_of_phaseRead hs (fun d v rest hd => inv_of_withSample fun x h => ?_) h
    cases h
    refine inv_of_reading hc rfl hd (by simp [Command.phases]) (by simp) ?_
    simp_all [State.HeldWhereRead]

/-! ### Steps -/

/-- A step of any agent keeps the invariants: host and bus touch no register of the block, and the
sequencer resets it, waits, takes a row, or accepts a command. -/
theorem inv_of_step (hs : s.Inv) (h : step s = .next t) : t.Inv :=
  step_elim h
    (host := fun _ _ _ _ _ _ => hs)
    (silent := hs)
    (readAnswered := fun _ _ _ _ _ => hs)
    (writeAnswered := fun _ _ _ _ _ _ => hs)
    (reset := fun _ _ _ => inv_of_quiet rfl rfl rfl rfl rfl rfl rfl)
    (row := fun _ _ hrow => inv_of_phaseStep (s := s.pass) hs hrow)
    (pure := fun _ _ _ _ => hs)
    (accepted := fun o _ _ _ hl ha => inv_enter (s := s.pass.accept o) hl ha)

/-- A read is outstanding in a reading phase, to the address the block holds (R25). -/
theorem reading_of_issued_read {d : DeviceAddress} {r : Byte} (h : issued s = some (.read d r)) :
    s.phase.reading = true ∧ s.daddr = some d := by
  unfold issued at h
  split at h
  case h_1 => cases h
  case h_3 hp hc =>
    split at h <;> cases h
    exact ⟨by rw [hp]; rfl, ‹_›⟩
  case h_12 => cases h
  all_goals
    rename_i hp hc
    obtain ⟨d', hd, hq⟩ := Option.map_eq_some_iff.mp h
    cases hq
    exact ⟨by rw [hp]; rfl, hd⟩

/-- A write is outstanding in the phase of INIT alone. -/
theorem init_of_issued_write {a : DeviceAddress} {r v : Byte}
    (h : issued s = some (.write a r v)) :
    s.phase = .i0 ∧ s.cmd = some (.init a) ∧ r = 0x20 ∧ v = 0x1F := by
  unfold issued at h
  split at h
  case h_1 hp hc =>
    cases h
    exact ⟨hp, hc, rfl, rfl⟩
  case h_3 => split at h <;> cases h
  case h_12 => cases h
  all_goals
    obtain ⟨_, _, hq⟩ := Option.map_eq_some_iff.mp h
    cases hq

/-- Nothing is left at the bus-master port, and no response was taken that is not there. -/
theorem portsFit_of_empty (hr : t.reads = []) (hw : t.writes = []) (hk : t.taken ≤ t.rsp.length) :
    t.PortsFit := by
  simp [State.PortsFit, hr, hw, hk]

/-- In a reading phase no answer to a write stands at the port. -/
theorem writes_eq_nil_of_reading (hs : s.PortsFit) (h : s.phase.reading = true) :
    s.writes = [] := by
  obtain ⟨_, hwrite, _⟩ := hs
  by_contra hne
  rw [hwrite hne] at h
  cases h

/-- In the phase of INIT no answer to a read stands at the port. -/
theorem reads_eq_nil_of_i0 (hs : s.PortsFit) (h : s.phase = .i0) : s.reads = [] := by
  obtain ⟨hread, _⟩ := hs
  by_contra hne
  have hr := hread hne
  rw [h] at hr
  cases hr

/-- In `IDLE` no answer stands at the port. -/
theorem answers_eq_nil_of_idle (hs : s.PortsFit) (hp : s.phase = .idle) :
    s.reads = [] ∧ s.writes = [] := by
  obtain ⟨hread, hwrite, _⟩ := hs
  constructor
  · by_contra hne
    have hr := hread hne
    rw [hp] at hr
    cases hr
  · by_contra hne
    cases hp.symm.trans (hwrite hne)

/-- A row that takes an answer leaves none at the port. -/
theorem portsFit_of_phaseStep (hs : s.PortsFit) (h : phaseStep s = .next t) : t.PortsFit := by
  have ⟨_, _, hr1, hw1, hk⟩ := hs
  have none_left {α : Type} {l rest : List α} {x : α} (hl : l.length ≤ 1) (e : l = x :: rest) :
      rest = [] := by simpa [e] using hl
  have hk' (r : Response) : s.taken ≤ (s.rsp ++ [r]).length := by
    rw [List.length_append]
    exact hk.trans (Nat.le_add_right _ _)
  have hw {d : DeviceAddress} {r : Byte} (hi : issued s = some (.read d r)) : s.writes = [] :=
    writes_eq_nil_of_reading hs (reading_of_issued_read hi).1
  exact phaseStep_elim h
    (wait := hs)
    (readFailed := fun _ _ _ _ hi hr => portsFit_of_empty (none_left hr1 hr) (hw hi) (hk' _))
    (writeFailed := fun _ _ _ hp _ hw =>
      portsFit_of_empty (reads_eq_nil_of_i0 (s := s) hs hp) (none_left hw1 hw) (hk' _))
    (constructed := fun _ _ hp _ hw =>
      portsFit_of_empty (reads_eq_nil_of_i0 (s := s) hs hp) (none_left hw1 hw) (hk' _))
    (advanced := fun _ _ _ _ _ _ _ _ _ hi _ hr =>
      portsFit_of_empty (none_left hr1 hr) (hw hi) hk)
    (finished := fun _ _ _ _ _ hi _ hr => portsFit_of_empty (none_left hr1 hr) (hw hi) (hk' _))

/-- What stands at the ports fits after a step of any agent: the bus answers the transaction
outstanding, the sequencer takes the answer, and acceptance leaves none. -/
theorem portsFit_of_step (hs : s.PortsFit) (h : step s = .next t) : t.PortsFit := by
  have ⟨hread, hwrite, hr1, hw1, hk⟩ := hs
  exact step_elim h
    (host := fun _ _ _ _ _ htaken => ⟨hread, hwrite, hr1, hw1, htaken hk⟩)
    (silent := hs)
    (readAnswered := fun _ _ r _ hi =>
      ⟨fun _ => (reading_of_issued_read hi).1, hwrite, by cases r <;> simp, hw1, hk⟩)
    (writeAnswered := fun _ _ _ w _ hi =>
      ⟨hread, fun _ => (init_of_issued_write hi).1, hr1, by cases w <;> simp, hk⟩)
    (reset := fun _ _ hp =>
      have hnil := answers_eq_nil_of_idle hs hp
      portsFit_of_empty hnil.1 hnil.2 hk)
    (row := fun _ _ hrow => portsFit_of_phaseStep (s := s.pass) hs hrow)
    (pure := fun _ _ _ _ => portsFit_of_empty rfl rfl (by
      rw [State.deliver_rsp, List.length_append]
      exact hk.trans (Nat.le_add_right _ _)))
    (accepted := fun _ _ _ _ _ _ => portsFit_of_empty rfl rfl hk)

end Invariants

/-- Settles O48, by `inv_of_step` and `portsFit_of_step`. -/
theorem stepKeepsInvariants : Obligations.StepKeepsInvariants :=
  fun _ _ h => ⟨fun hs => inv_of_step hs h, fun hs => portsFit_of_step hs h⟩

end Sys2Proof.Machine
end

section
/-! The transaction of a step (spec/20_memory.md R25, R27): what a step adds to the trace, and with it
to the responses and to the address (spec/10_state.md R10, R11; spec/60_exceptions.md R96). -/

namespace Sys2Proof.Machine

section Steps

variable {s t : State}

/-! ### The transaction of a step -/

/-- Between `s` and `t` no transaction was completed: the address is kept, or cleared by `rst`, and no
error is delivered. -/
def NoTransaction (s t : State) : Prop :=
  t.trace = s.trace ∧ (t.daddr = s.daddr ∨ (s.rst = true ∧ t.daddr = none)) ∧
    ∀ e, t.rsp ≠ s.rsp ++ [.err e]

/-- Between `s` and `t` one read of the address held was completed or failed; an error delivered is
its failure (R25, R96). -/
def OneRead (s t : State) : Prop :=
  ∃ d r reply, s.daddr = some d ∧ t.daddr = some d ∧ t.trace = s.trace ++ [.read d r reply] ∧
    ∀ e, t.rsp = s.rsp ++ [.err e] → reply = .fail e

/-- Between `s` and `t` the write of the INIT in progress was acknowledged, and its address is held, or
failed (R75). -/
def OneWrite (s t : State) : Prop :=
  ∃ a, s.phase = .i0 ∧ s.cmd = some (.init a) ∧
    ((t.trace = s.trace ++ [.write a 0x20 0x1F .ack] ∧ t.daddr = some a ∧
        t.rsp = s.rsp ++ [.ok .unit]) ∨
      ∃ e, t.trace = s.trace ++ [.write a 0x20 0x1F (.fail e)] ∧ t.daddr = s.daddr ∧
        t.rsp = s.rsp ++ [.err e])

/-- Nothing but a port or the working state has changed. -/
theorem noTransaction_of_same (htr : t.trace = s.trace) (hd : t.daddr = s.daddr)
    (hrsp : t.rsp = s.rsp) : NoTransaction s t := ⟨htr, .inl hd, by simp [hrsp]⟩

/-- A row completes no transaction, or one read, or the write of INIT. -/
theorem phaseStep_transaction (h : phaseStep s = .next t) :
    NoTransaction s t ∨ OneRead s t ∨ OneWrite s t :=
  phaseStep_elim (P := fun t => NoTransaction s t ∨ OneRead s t ∨ OneWrite s t) h
    (wait := .inl (noTransaction_of_same rfl rfl rfl))
    (readFailed := fun d r e _ hi _ =>
      have hd := (reading_of_issued_read hi).2
      .inr (.inl ⟨d, r, .fail e, hd, hd, rfl, fun _ he => by simpa using he⟩))
    (writeFailed := fun a e _ hp hc _ => .inr (.inr ⟨a, hp, hc, .inr ⟨e, rfl, rfl, rfl⟩⟩))
    (constructed := fun a _ hp hc _ => .inr (.inr ⟨a, hp, hc, .inl ⟨rfl, rfl, rfl⟩⟩))
    (advanced := fun d r v _ _ _ _ _ _ _ hd _ =>
      .inr (.inl ⟨d, r, .byte v, hd, hd, rfl, by simp⟩))
    (finished := fun d r v _ _ _ hd _ => .inr (.inl ⟨d, r, .byte v, hd, hd, rfl, by simp⟩))

/-- A step completes no transaction, or one read, or the write of INIT. -/
theorem step_transaction (h : step s = .next t) :
    NoTransaction s t ∨ OneRead s t ∨ OneWrite s t :=
  step_elim (P := fun t => NoTransaction s t ∨ OneRead s t ∨ OneWrite s t) h
    (host := fun _ _ _ _ _ _ => .inl (noTransaction_of_same rfl rfl rfl))
    (silent := .inl (noTransaction_of_same rfl rfl rfl))
    (readAnswered := fun _ _ _ _ _ => .inl (noTransaction_of_same rfl rfl rfl))
    (writeAnswered := fun _ _ _ _ _ _ => .inl (noTransaction_of_same rfl rfl rfl))
    (reset := fun _ hr _ => .inl ⟨rfl, .inr ⟨hr, rfl⟩, by simp⟩)
    (row := fun _ _ hrow => phaseStep_transaction (s := s.pass) hrow)
    (pure := fun _ _ _ _ => .inl ⟨rfl, .inl rfl, by simp⟩)
    (accepted := fun _ _ _ _ _ _ => .inl (noTransaction_of_same rfl rfl rfl))

/-- The transaction that a step adds to the trace, if it completes one; no error is delivered
without it. -/
theorem trace_of_step (h : step s = .next t) :
    (t.trace = s.trace ∧ ∀ e, t.rsp ≠ s.rsp ++ [.err e]) ∨
      ∃ x, t.trace = s.trace ++ [x] ∧ x.configWriteOnly = true ∧
        ∀ e, t.rsp = s.rsp ++ [.err e] → x.failure = some e := by
  rcases step_transaction h with ⟨htr, _, hne⟩ | ⟨d, r, reply, _, _, htr, he⟩ |
    ⟨a, _, _, ⟨htr, _, hrsp⟩ | ⟨e, htr, _, hrsp⟩⟩
  · exact .inl ⟨htr, hne⟩
  · exact .inr ⟨_, htr, rfl, fun e hrsp => by rw [he e hrsp]; rfl⟩
  · exact .inr ⟨_, htr, rfl, by simp [hrsp]⟩
  · exact .inr ⟨_, htr, rfl, by simp [hrsp, Transaction.failure]⟩

end Steps

/-- Settles O53: the one transaction of a step is a read or the write of INIT. -/
theorem onlyConfigWrites : Obligations.OnlyConfigWrites := by
  intro s t h
  rcases trace_of_step h with ⟨htr, _⟩ | ⟨x, htr, hx, _⟩
  · exact ⟨[], by simpa using htr, by simp⟩
  · exact ⟨[x], htr, by simpa using hx⟩

/-- Settles O54: a read goes to the address held, and the write of INIT is not in progress on a
constructed block (R22 d). -/
theorem readsGoToDaddr : Obligations.ReadsGoToDaddr := by
  intro s t d hinv hd h
  rcases step_transaction h with ⟨htr, _⟩ | ⟨d', r, reply, hd', _, htr, _⟩ | ⟨a, hp, _⟩
  · exact ⟨[], by simpa using htr, by simp⟩
  · obtain rfl : d = d' := by simpa [hd] using hd'
    exact ⟨_, htr, by simp [Transaction.target]⟩
  · obtain ⟨_, ⟨_, hi0⟩, _⟩ := hinv
    cases hd.symm.trans (hi0 hp)

/-- Settles O51: a step without a transaction keeps the address, as does a read, and the write of INIT
is in progress only where no address is held. -/
theorem daddrWrittenByInitOnly : Obligations.DaddrWrittenByInitOnly := by
  intro s t hinv hrst h
  obtain ⟨_, ⟨_, hi0⟩, _⟩ := hinv
  rcases step_transaction h with ⟨_, hd | ⟨hr, _⟩, _⟩ | ⟨d, _, _, hd, hd', _⟩ | ⟨a, hp, hc, hwrite⟩
  · exact ⟨fun a ha => hd.trans ha, fun a hn ha => by cases hn.symm.trans (hd.symm.trans ha)⟩
  · cases hrst.symm.trans hr
  · exact ⟨fun a ha => hd'.trans (hd.symm.trans ha), fun a hn _ => by cases hn.symm.trans hd⟩
  · refine ⟨fun b hb => ?_, fun b _ hb => ?_⟩
    · cases hb.symm.trans (hi0 hp)
    · rcases hwrite with ⟨htr, hd, hrsp⟩ | ⟨_, _, hd, _⟩
      · obtain rfl : a = b := by simpa [hd] using hb
        exact ⟨htr, hrsp, hp, hc⟩
      · cases hb.symm.trans (hd.trans (hi0 hp))

/-- Settles O52: the address is kept or cleared while the trace only grows, and it is set by an
acknowledged write alone. -/
theorem constructedImpliesWritten : Obligations.ConstructedImpliesWritten := by
  refine ⟨by simp [State.ConstructedByWrite], fun s t hs h a ha => ?_⟩
  rcases step_transaction h with ⟨htr, hd | ⟨_, hd⟩, _⟩ | ⟨d, _, _, hd, hd', htr, _⟩ |
    ⟨b, _, _, ⟨htr, hd, _⟩ | ⟨_, htr, hd, _⟩⟩
  · exact htr ▸ hs a (hd ▸ ha)
  · simp [hd] at ha
  · exact htr ▸ List.mem_append_left _ (hs a (hd.trans hd'.symm ▸ ha))
  · obtain rfl : b = a := by simpa [hd] using ha
    simp [htr]
  · exact htr ▸ List.mem_append_left _ (hs a (hd ▸ ha))

/-- Settles O41: an error comes with the failed transaction of its step, and the row of the
transaction outstanding delivers its failure. -/
theorem errorOnlyFromFailedTransaction : Obligations.ErrorOnlyFromFailedTransaction := by
  refine ⟨fun s t e h he => ?_, fun _ _ _ _ _ ht hr hi hf => step_read_fail ht hr hi hf,
    fun _ _ _ _ _ _ ht hr hi hf => step_write_fail ht hr hi hf⟩
  rcases trace_of_step h with ⟨_, hne⟩ | ⟨x, htr, _, hx⟩
  · exact absurd he (hne e)
  · exact ⟨x, htr, hx e he⟩

end Sys2Proof.Machine
end

section
/-! The turns of the agents (spec/00_scope.md R8): what each leaves as it is, the acceptance of a
command, `rst`, and when a step stops (spec/30_encoding.md R46; spec/60_exceptions.md R102). -/

namespace Sys2Proof.Machine

section Turns

variable {s t : State} {o : Offer} {i : Instr}

/-! ### What a row leaves unchanged -/

/-- What no row of the phase table touches: the offer, `cmd_daddr`, `rst`, the responses taken, the
turn and the count of steps. -/
def SamePorts (s t : State) : Prop :=
  t.port = s.port ∧ t.cmdDaddr = s.cmdDaddr ∧ t.rst = s.rst ∧ t.taken = s.taken ∧
    t.turn = s.turn ∧ t.moves = s.moves

theorem SamePorts.refl (s : State) : SamePorts s s := ⟨rfl, rfl, rfl, rfl, rfl, rfl⟩

/-- A row leaves the ports, and the command in progress stays latched or has ended. -/
theorem samePorts_of_phaseStep (h : phaseStep s = .next t) :
    SamePorts s t ∧ (t.cmd = s.cmd ∨ t.cmd = none) :=
  phaseStep_elim (P := fun t => SamePorts s t ∧ (t.cmd = s.cmd ∨ t.cmd = none)) h
    (wait := ⟨.refl s, .inl rfl⟩)
    (readFailed := fun _ _ _ _ _ _ => ⟨.refl s, .inr rfl⟩)
    (writeFailed := fun _ _ _ _ _ _ => ⟨.refl s, .inr rfl⟩)
    (constructed := fun _ _ _ _ _ => ⟨.refl s, .inr rfl⟩)
    (advanced := fun _ _ _ _ _ _ _ _ _ _ _ _ => ⟨.refl s, .inl rfl⟩)
    (finished := fun _ _ _ _ _ _ _ _ => ⟨.refl s, .inr rfl⟩)

/-! ### The acceptance of a command -/

/-- In `IDLE` the sequencer runs the command at the port. -/
theorem step_command (ht : s.turn = .sequencer) (hr : s.rst = false) (hp : s.phase = .idle)
    (hport : s.port = some o) (hdec : decode o.word = .ok i) :
    step s = exec i (s.pass.accept o) :=
  (step_sequencer ht).trans (sequencerStep_command (s := s.pass) hr hp hport hdec)

/-- The pure commands are latched nowhere (R13). -/
theorem latchedCommand_of_isPure (a : DeviceAddress) (h : isPure i = true) :
    latchedCommand a i = none := by
  cases i with
  | unpack | decrange | scale => rfl
  | init | rdaxis | rdrangeDec | rdrangeRaw | rdaccelG | rdaccelMs2 => cases h

/-- A bus command that is not refused goes to its first phase when it is accepted. -/
theorem exec_accept_enter {c : Command} (hp : s.phase = .idle)
    (hc : latchedCommand o.daddr i = some c) (hx : refusedCase i s = none) :
    exec i (s.accept o) = .next ((s.accept o).enter c) := by
  rcases exec_accept_cases i o hp with ⟨r, hr, _⟩ | ⟨_, hpure, _⟩ | ⟨_, c', hc', _, _, _, e⟩
  · cases hx.symm.trans hr
  · cases (latchedCommand_of_isPure _ hpure).symm.trans hc
  · obtain rfl : c' = c := by simpa [hc'] using hc
    exact e

/-! ### Turns -/

/-- Between `s` and `t` a turn has passed; the sequencer has taken no response and has put no offer at
the port. -/
def TurnPassed (s t : State) : Prop :=
  t.turn = Config.schedule s.moves ∧ t.moves = s.moves + 1 ∧
    (s.turn = .sequencer → t.taken = s.taken ∧ (t.port = s.port ∨ t.port = none))

theorem turnPassed_of_step (h : step s = .next t) : TurnPassed s t :=
  step_elim h
    (host := fun _ _ _ ht _ _ => ⟨rfl, rfl, by simp [ht]⟩)
    (silent := ⟨rfl, rfl, fun _ => ⟨rfl, .inl rfl⟩⟩)
    (readAnswered := fun _ _ _ ht _ => ⟨rfl, rfl, by simp [ht]⟩)
    (writeAnswered := fun _ _ _ _ ht _ => ⟨rfl, rfl, by simp [ht]⟩)
    (reset := fun _ _ _ => ⟨rfl, rfl, fun _ => ⟨rfl, .inl rfl⟩⟩)
    (row := fun _ _ hrow =>
      have ⟨⟨hport, _, _, htaken, hturn, hmoves⟩, _⟩ := samePorts_of_phaseStep hrow
      ⟨hturn, hmoves, fun _ => ⟨htaken, .inl hport⟩⟩)
    (pure := fun _ _ _ _ => ⟨rfl, rfl, fun _ => ⟨rfl, .inr rfl⟩⟩)
    (accepted := fun _ _ _ _ _ _ => ⟨rfl, rfl, fun _ => ⟨rfl, .inr rfl⟩⟩)

/-- What a move of the host changes, move by move: the offer where none stands, `rst`, and the count
of responses taken. -/
theorem hostAct_frame (m : HostMove) (s : State) : ∃ p b k,
    hostAct m s = { s with port := p, rst := b, taken := k } ∧
    (∀ o, p = some o ↔ s.port = some o ∨ (s.port = none ∧ m = .offer o)) ∧
    (b = true ↔ s.rst = true ∨ m = .assertRst) ∧
    (m = .take → s.taken < s.rsp.length → k = s.taken + 1) ∧ (m ≠ .take → k = s.taken) := by
  cases m with
  | wait => exact ⟨s.port, s.rst, s.taken, rfl, by simp, by simp, by simp, by simp⟩
  | assertRst => exact ⟨s.port, true, s.taken, rfl, by simp, by simp, by simp, by simp⟩
  | take =>
    exact ⟨s.port, s.rst, min (s.taken + 1) s.rsp.length, rfl, by simp, by simp,
      fun _ hlt => Nat.min_eq_left hlt, by simp⟩
  | offer o =>
    by_cases hp : s.port = none
    · exact ⟨some o, s.rst, s.taken, by simp [hostAct, hp], by simp [hp], by simp, by simp,
        by simp⟩
    · exact ⟨s.port, s.rst, s.taken, by simp [hostAct, hp], by simp [hp], by simp, by simp, by simp⟩

/-- The bus answers a read or a write that is unanswered, and does nothing else. -/
theorem busAct_answers (r : Option ReadReply) (w : Option WriteReply) (s : State) :
    (∀ d q, issued s = some (.read d q) → s.reads = [] →
      busAct r w s = { s with reads := r.toList }) ∧
    (∀ d q v, issued s = some (.write d q v) → s.writes = [] →
      busAct r w s = { s with writes := w.toList }) ∧
    (s.unanswered = false → busAct r w s = s) := by
  refine ⟨fun d q hi hr => by simp [busAct, hi, hr], fun d q v hi hw => by simp [busAct, hi, hw],
    fun hu => ?_⟩
  rcases busAct_eq r w s with e | ⟨d, q, hi, hr, _⟩ | ⟨d, q, v, hi, hw, _⟩
  · exact e
  · cases hu.symm.trans (unanswered_iff.mpr (.inl ⟨d, q, hi, hr⟩))
  · cases hu.symm.trans (unanswered_iff.mpr (.inr ⟨d, q, v, hi, hw⟩))

/-- Between `s` and `t` an offer and `cmd_daddr` have stood, and the command is latched or has ended;
only the sequencer has touched a register. -/
def LeavesCommand (s t : State) : Prop :=
  (∀ o, s.port = some o → t.port = some o) ∧ t.cmdDaddr = s.cmdDaddr ∧
    (t.cmd = s.cmd ∨ t.cmd = none) ∧
    (s.turn ≠ .sequencer → t.cmd = s.cmd ∧ t.phase = s.phase ∧ t.daddr = s.daddr ∧ t.lo = s.lo ∧
      t.s0 = s.s0 ∧ t.s1 = s.s1 ∧ t.s2 = s.s2 ∧ t.rb = s.rb)

theorem leavesCommand_of_step (hbusy : s.phase ≠ .idle) (h : step s = .next t) :
    LeavesCommand s t :=
  step_elim h
    (host := fun _ _ _ _ hoffer _ => ⟨hoffer, rfl, .inl rfl, by simp⟩)
    (silent := ⟨fun _ ho => ho, rfl, .inl rfl, by simp⟩)
    (readAnswered := fun _ _ _ _ _ => ⟨fun _ ho => ho, rfl, .inl rfl, by simp⟩)
    (writeAnswered := fun _ _ _ _ _ _ => ⟨fun _ ho => ho, rfl, .inl rfl, by simp⟩)
    (reset := fun _ _ hp => absurd hp hbusy)
    (row := fun _ ht hrow =>
      have ⟨⟨hport, hcd, _⟩, hcmd⟩ := samePorts_of_phaseStep hrow
      ⟨fun _ ho => hport.trans ho, hcd, hcmd, fun hne => absurd ht hne⟩)
    (pure := fun _ _ _ hp => absurd hp hbusy)
    (accepted := fun _ _ _ hp _ _ => absurd hp hbusy)

end Turns

/-- Settles O8, by `step_command`. -/
theorem stepRunsDecodedCommand : Obligations.StepRunsDecodedCommand :=
  fun _ _ _ ht hr hp hport hdec => step_command ht hr hp hport hdec

/-- Settles O9: the move of the host by `hostAct_frame`, the answer of the bus by `busAct_answers`,
the turns by `turnPassed_of_step`. -/
theorem agentsTakeTurns : Obligations.AgentsTakeTurns :=
  ⟨fun _ => step_host, fun _ => step_bus, hostAct_frame, busAct_answers, fun _ _ => turnPassed_of_step⟩

/-- Settles O10: one transaction at most by `trace_of_step`, the first phase by
`exec_accept_enter`. -/
theorem onePhasePerStep : Obligations.OnePhasePerStep := by
  refine ⟨fun s t h => ?_, fun s o i c ht hr hp hport hdec hc hx => ?_⟩
  · exact (trace_of_step h).imp And.left fun ⟨x, htr, _⟩ => ⟨x, htr⟩
  · exact (step_command ht hr hp hport hdec).trans (exec_accept_enter (s := s.pass) hp hc hx)

/-- Settles O12, by `step_busy` and `leavesCommand_of_step`. -/
theorem busyBlockAcceptsNothing : Obligations.BusyBlockAcceptsNothing :=
  ⟨fun _ => step_busy, fun _ _ => leavesCommand_of_step⟩

/-- Settles O15: the only next state is `s.pass.resetBlock`, which keeps the ports. -/
theorem rstLeavesPorts : Obligations.RstLeavesPorts := by
  intro s t ht hr h
  by_cases hp : s.phase = .idle
  · cases (step_rst_idle ht hr hp).symm.trans h
    exact ⟨rfl, rfl, rfl, rfl, rfl⟩
  · cases (step_rst_busy ht hr hp).symm.trans h

/-- Settles O44: each kind of step of the sequencer is refused in its own case, a row of the phase
table in none, by `exists_phaseStep_next`. -/
theorem refusedExactlyAsListed : Obligations.RefusedExactlyAsListed := by
  intro s r hinv
  constructor
  · intro h
    rcases ht : s.turn
    case host => cases (step_host ht).symm.trans h
    case bus => cases (step_bus ht).symm.trans h
    rw [step_sequencer ht] at h
    refine ⟨rfl, ?_⟩
    rcases sequencerStep_cases s.pass with ⟨hr, e⟩ | ⟨_, _, e⟩ | ⟨_, _, _, e⟩ |
      ⟨o, e', hr, hp, hport, hdec, e⟩ | ⟨o, i, hr, hp, hport, hdec, e⟩ <;> rw [e] at h
    · by_cases hp : s.phase = .idle
      · cases (onReset_idle (s := s.pass) hp).symm.trans h
      · cases (onReset_busy (s := s.pass) hp).symm.trans h
        exact .inl ⟨hr, hp, rfl⟩
    · obtain ⟨t, ht⟩ := exists_phaseStep_next (s := s.pass) hinv
      cases ht.symm.trans h
    · cases h
    · cases h
      exact .inr (.inl ⟨hr, hp, o, e', hport, hdec, rfl⟩)
    · exact .inr (.inr ⟨hr, hp, o, i, hport, hdec, (exec_accept_refused_iff hp i o r).mp h⟩)
  · rintro ⟨ht, ⟨hr, hp, rfl⟩ | ⟨hr, hp, o, e, hport, hdec, rfl⟩ |
      ⟨hr, hp, o, i, hport, hdec, hx⟩⟩
    · exact step_rst_busy ht hr hp
    · exact (step_sequencer ht).trans (sequencerStep_reserved (s := s.pass) hr hp hport hdec)
    · exact step_refused_of_refusedCase ht hr hp hport hdec hx

/-- Settles O49: only a row of the phase table could fault, and where the invariants hold it answers a
next state. -/
theorem invariantsExcludeFaults : Obligations.InvariantsExcludeFaults := by
  intro s f hinv h
  rcases ht : s.turn
  case host => cases (step_host ht).symm.trans h
  case bus => cases (step_bus ht).symm.trans h
  rw [step_sequencer ht] at h
  rcases sequencerStep_cases s.pass with ⟨_, e⟩ | ⟨_, _, e⟩ | ⟨_, _, _, e⟩ |
    ⟨_, _, _, _, _, _, e⟩ | ⟨o, i, _, hp, _, _, e⟩ <;> rw [e] at h
  · unfold onReset at h
    split at h <;> cases h
  · obtain ⟨t, ht⟩ := exists_phaseStep_next (s := s.pass) hinv
    cases ht.symm.trans h
  · cases h
  · cases h
  · rcases exec_accept_cases i o hp with ⟨_, _, e⟩ | ⟨_, _, _, e⟩ | ⟨_, _, _, _, _, _, e⟩
    all_goals cases e.symm.trans h

end Sys2Proof.Machine
end

section
/-! The two forms of a bus command (spec/41_bus_commands.md R81, R82): the big-step rule is what the
rows of the phase table reach, one row per transaction. -/

namespace Sys2Proof.Machine

/-- The rows of the phase table that follow an outcome, if it is a next state. -/
def thenRun (n : Nat) (o : Out) : Out :=
  match o with
  | .next t => runPhases n t
  | .fault r => .fault r
  | .refused r => .refused r

theorem runPhases_eq_thenRun (n : Nat) (s : State) :
    runPhases (n + 1) s = thenRun n (phaseStep s) := by
  rcases h : phaseStep s <;> simp [runPhases, thenRun, h]

/-- From the outcome of a row, `m` rows or more lead to `o`. -/
def EndsWithin (m : Nat) (row o : Out) : Prop := ∀ n, m ≤ n → thenRun n row = o

section BothForms

variable {s u : State} {d : DeviceAddress}

theorem endsWithin_finish (u : State) (p : Payload) : EndsWithin 0 (finish u p) (finish u p) :=
  fun n _ => runPhases_ended u (.ok p) n

/-- One read, in a row of its own: where the row goes on as the big-step rule does, both agree; also
where the read is not answered, and where it fails. -/
theorem endsWithin_busRead {m : Nat} {r : Byte} {k k' : Byte → State → Out}
    (hrow : phaseStep u = phaseRead u r k') (hd : u.daddr = some d)
    (hk : ∀ v rest, EndsWithin m (k' v ({ u with reads := rest }.record (.read d r (.byte v))))
      (k v ({ u with reads := rest }.record (.read d r (.byte v))))) :
    EndsWithin (m + 1) (.next u) (busRead u d r k) := by
  intro n hn
  obtain ⟨n, rfl⟩ : ∃ l, n = l + 1 := ⟨n - 1, by omega⟩
  rw [phaseRead_some hd] at hrow
  rcases busRead_cases u d r k' with ⟨hr, e⟩ | ⟨v, rest, hr, e⟩ | ⟨e', rest, hr, e⟩
  · rw [busRead_nil hr]
    exact runPhases_fixed (hrow.trans e) _
  · rw [busRead_byte hr]
    change runPhases (n + 1) u = _
    rw [runPhases_eq_thenRun, hrow, e]
    exact hk v rest n (by omega)
  · rw [busRead_fail hr]
    change runPhases (n + 1) u = _
    rw [runPhases_eq_thenRun, hrow, e]
    exact runPhases_ended _ (.err e') n

theorem execInit_endsWithin (hp : s.phase = .idle) (hd : s.daddr = none) :
    EndsWithin 1 (.next (s.enter (.init s.cmdDaddr))) (execInit s) := by
  intro n hn
  obtain ⟨n, rfl⟩ : ∃ l, n = l + 1 := ⟨n - 1, by omega⟩
  simp only [execInit, whenIdle_idle hp, hd]
  have hrow := phaseStep_i0 (s := s.enter (.init s.cmdDaddr)) rfl rfl
  rcases hw : s.writes with _ | ⟨_ | e, rest⟩
  · rw [busWrite_nil (by simpa using hw)] at hrow ⊢
    exact runPhases_fixed hrow _
  · rw [busWrite_ack (by simpa using hw)] at hrow ⊢
    exact (runPhases_succ hrow n).trans (runPhases_ended _ (.ok .unit) n)
  · rw [busWrite_fail (by simpa using hw)] at hrow ⊢
    exact (runPhases_succ hrow n).trans (runPhases_ended _ (.err e) n)

theorem execRdaxis_endsWithin {base : Byte} (hb : base ≠ 0xFF) (hp : s.phase = .idle)
    (hd : s.daddr = some d) :
    EndsWithin 2 (.next (s.enter (.rdaxis base))) (execRdaxis base s) := by
  simp only [execRdaxis, whenIdle_idle hp, highOffset_of_ne hb, whenConstructed_some hd]
  refine endsWithin_busRead (phaseStep_a0 rfl rfl) hd fun low rest => ?_
  refine endsWithin_busRead ((phaseStep_a1 rfl rfl).trans (phaseReadHigh_of_ne hb _ _)) hd
    fun high rest => ?_
  exact endsWithin_finish _ _

theorem readRange_endsWithin {raw : Bool} {respond : Byte → Payload}
    (hk : ∀ v, respond v = rangePayload raw v) (hp : s.phase = .idle) (hd : s.daddr = some d) :
    EndsWithin 1 (.next (s.enter (.rdrange raw))) (readRange raw respond s) := by
  simp only [readRange, whenIdle_idle hp, whenConstructed_some hd, hk]
  refine endsWithin_busRead (phaseStep_g0 rfl rfl) hd fun b rest => ?_
  exact endsWithin_finish _ _

theorem readAccel_endsWithin {a : AccelUnits} (hp : s.phase = .idle) (hd : s.daddr = some d) :
    EndsWithin 7 (.next (s.enter (.rdaccel a))) (readAccel a s) := by
  simp only [readAccel, whenIdle_idle hp, whenConstructed_some hd]
  refine endsWithin_busRead (phaseStep_c0 rfl rfl) hd fun xl _ => ?_
  refine endsWithin_busRead (phaseStep_c1 rfl rfl) hd fun xh _ => ?_
  refine endsWithin_busRead (phaseStep_c2 rfl rfl) hd fun yl _ => ?_
  refine endsWithin_busRead (phaseStep_c3 rfl rfl) hd fun yh _ => ?_
  refine endsWithin_busRead (phaseStep_c4 rfl rfl) hd fun zl _ => ?_
  refine endsWithin_busRead (phaseStep_c5 rfl rfl) hd fun zh _ => ?_
  refine endsWithin_busRead (phaseStep_c6 rfl rfl) hd fun b _ => ?_
  exact endsWithin_finish _ _

/-! ### Refused or run -/

/-- The refused case that the reading commands share: no address is held (R102 case 3). -/
theorem unconstructed_eq_some {r : Refusal}
    (h : (if s.daddr.isSome then none else some Refusal.unconstructed) = some r) :
    s.daddr = none ∧ r = .unconstructed := by
  rcases hd : s.daddr with _ | d <;> simp_all

theorem unconstructed_eq_none
    (h : (if s.daddr.isSome then none else some Refusal.unconstructed) = none) :
    ∃ d, s.daddr = some d := by
  rcases hd : s.daddr with _ | d
  · simp [hd] at h
  · exact ⟨d, rfl⟩

theorem refusedCase_rdaxis {base : Byte} (hb : base ≠ 0xFF) (s : State) :
    refusedCase (.rdaxis base) s = if s.daddr.isSome then none else some .unconstructed :=
  if_neg hb

/-- A command in its refused case is refused. -/
theorem exec_refusedCase {i : Instr} {r : Refusal} (hp : s.phase = .idle)
    (hx : refusedCase i s = some r) : exec i s = .refused r := by
  cases i with
  | init =>
    rcases hd : s.daddr with _ | d <;> simp [refusedCase, hd] at hx
    exact hx ▸ execInit_constructed hp hd
  | rdaxis base =>
    by_cases hb : base = 0xFF
    · subst hb
      cases hx
      exact execRdaxis_ff hp
    · obtain ⟨hd, rfl⟩ := unconstructed_eq_some (refusedCase_rdaxis hb s ▸ hx)
      exact execRdaxis_unconstructed hb hp hd
  | rdrangeDec | rdrangeRaw =>
    obtain ⟨hd, rfl⟩ := unconstructed_eq_some hx
    exact readRange_unconstructed hp hd
  | rdaccelG | rdaccelMs2 =>
    obtain ⟨hd, rfl⟩ := unconstructed_eq_some hx
    exact readAccel_unconstructed hp hd
  | unpack | decrange | scale => cases hx

/-- R82: a bus command that is not refused is what the phase table reaches from its first phase in
seven rows or more. -/
theorem exec_eq_runPhases {i : Instr} {c : Command} (hp : s.phase = .idle)
    (hc : latchedCommand s.cmdDaddr i = some c) (hx : refusedCase i s = none) {n : Nat}
    (hn : 7 ≤ n) : exec i s = runPhases n (s.enter c) := by
  cases i with
  | init =>
    cases hc
    have hd : s.daddr = none := by simpa [refusedCase] using hx
    exact (execInit_endsWithin hp hd n (by omega)).symm
  | rdaxis base =>
    cases hc
    by_cases hb : base = 0xFF
    · simp [refusedCase, hb] at hx
    · obtain ⟨d, hd⟩ := unconstructed_eq_none (refusedCase_rdaxis hb s ▸ hx)
      exact (execRdaxis_endsWithin hb hp hd n (by omega)).symm
  | rdrangeDec | rdrangeRaw =>
    cases hc
    obtain ⟨d, hd⟩ := unconstructed_eq_none hx
    exact (readRange_endsWithin (fun _ => rfl) hp hd n (by omega)).symm
  | rdaccelG | rdaccelMs2 =>
    cases hc
    obtain ⟨d, hd⟩ := unconstructed_eq_none hx
    exact (readAccel_endsWithin hp hd n hn).symm
  | unpack | decrange | scale => cases hc

end BothForms

/-- Settles O42, by `exec_eq_runPhases`. -/
theorem bigStepAgreesWithPhaseTable : Obligations.BigStepAgreesWithPhaseTable :=
  fun _ _ _ hp hc hx _ hn => exec_eq_runPhases hp hc hx hn

end Sys2Proof.Machine
end

section
/-! A whole command from `IDLE` (spec/00_scope.md R9; spec/10_state.md R12, R18): it runs unless it is
refused, what it leaves when it has ended, its frame, and what its response depends on. -/

namespace Sys2Proof.Machine

section Commands

variable {s t : State} {i : Instr} {c : Command}

/-! ### A command as a run of the phase table -/

/-- What every row keeps, every number of rows keeps. -/
theorem runPhases_keeps {P : State → Prop} (hrow : ∀ {s t}, P s → phaseStep s = .next t → P t)
    {n : Nat} (hs : P s) (h : runPhases n s = .next t) : P t := by
  induction n generalizing s with
  | zero =>
    cases h
    exact hs
  | succ n ih =>
    rw [runPhases_eq_thenRun] at h
    rcases hr : phaseStep s with u | _ | _ <;> rw [hr] at h
    · exact ih (hrow hs hr) h
    all_goals cases h

/-- Where the invariants hold any number of rows answers a next state. -/
theorem exists_runPhases_next (hs : s.Inv) (n : Nat) : ∃ t, runPhases n s = .next t := by
  induction n generalizing s with
  | zero => exact ⟨s, rfl⟩
  | succ n ih =>
    obtain ⟨u, hu⟩ := exists_phaseStep_next hs
    rw [runPhases_succ hu]
    exact ih (inv_of_phaseStep hs hu)

/-- A command that is not refused is a pure command, or a bus command that starts in its first phase
where the invariants hold. -/
theorem exec_unrefused (hp : s.phase = .idle) (hx : refusedCase i s = none) :
    (isPure i = true ∧ ∃ p, exec i s = .next (s.deliver (.ok p))) ∨
    (∃ c, latchedCommand s.cmdDaddr i = some c ∧ (s.enter c).Inv ∧
      exec i s = runPhases 7 (s.enter c)) := by
  rcases exec_accept_cases i ⟨0, s.cmdDaddr⟩ hp with ⟨r, hr, _⟩ | ⟨_, hpure, _⟩ |
    ⟨_, c, hc, hl, _, ha, _⟩
  · cases hx.symm.trans hr
  · obtain ⟨p, e⟩ := exec_pure hpure s
    exact .inl ⟨hpure, p, e.trans (whenIdle_idle hp _)⟩
  · exact .inr ⟨c, hc, inv_enter hl ha, exec_eq_runPhases hp hc hx le_rfl⟩

/-- A command that answers a next state was not refused. -/
theorem refusedCase_of_next (hp : s.phase = .idle) (h : exec i s = .next t) :
    refusedCase i s = none := by
  rcases hx : refusedCase i s with _ | r
  · rfl
  · cases (exec_refusedCase hp hx).symm.trans h

/-- Everything a command that answers a next state is: a pure command, or rows of the phase table. -/
theorem exec_next_cases (hp : s.phase = .idle) (h : exec i s = .next t) :
    (isPure i = true ∧ ∃ p, t = s.deliver (.ok p)) ∨
    (∃ c, latchedCommand s.cmdDaddr i = some c ∧ (s.enter c).Inv ∧
      runPhases 7 (s.enter c) = .next t) := by
  rcases exec_unrefused hp (refusedCase_of_next hp h) with ⟨hi, p, e⟩ | ⟨c, hc, hinv, e⟩
  · exact .inl ⟨hi, p, (Host.Outcome.next.inj (e.symm.trans h)).symm⟩
  · exact .inr ⟨c, hc, hinv, e.symm.trans h⟩

end Commands

/-- Settles O46: a command that is not refused is pure or is rows of the phase table, which answer next
states where the invariants hold. -/
theorem unrefusedCommandsRun : Obligations.UnrefusedCommandsRun := by
  intro i s hp
  have runs (hx : refusedCase i s = none) : ∃ t, exec i s = .next t := by
    rcases exec_unrefused hp hx with ⟨_, p, e⟩ | ⟨c, _, hinv, e⟩
    · exact ⟨_, e⟩
    · exact e ▸ exists_runPhases_next hinv 7
  refine ⟨runs, fun f h => ?_⟩
  rcases hx : refusedCase i s with _ | r
  · obtain ⟨t, ht⟩ := runs hx
    cases ht.symm.trans h
  · cases (exec_refusedCase hp hx).symm.trans h

/-- Settles O50: a pure command changes nothing but the responses, and a bus command ends where the
invariants hold, of which R22 (a) and (b) say it. -/
theorem endedCommandLeavesNothing : Obligations.EndedCommandLeavesNothing := by
  intro i s t hp hclean h ht
  have hquiet : t.IdleClean := by
    rcases exec_next_cases hp h with ⟨_, p, rfl⟩ | ⟨c, _, hinv, hrun⟩
    · exact hclean
    · exact (runPhases_keeps inv_of_phaseStep hinv hrun).1
  obtain ⟨hcmd, hheld⟩ := hquiet
  obtain ⟨hlo, h0, h1, h2, hb⟩ := hheld ht
  exact (State.quiet_eq_self t ht (hcmd.mp ht) hlo h0 h1 h2 hb).symm

/-! ### The frame of a command -/

section Frame

variable {s t u : State} {i : Instr}

/-- From `s` to `t` the ports are untouched, replies are only consumed from the front, and the trace
and the responses are only added to. -/
def Extends (s t : State) : Prop :=
  SamePorts s t ∧ (∃ n, t.reads = s.reads.drop n) ∧ (∃ n, t.writes = s.writes.drop n) ∧
    (∃ new, t.trace = s.trace ++ new) ∧ ∃ new, t.rsp = s.rsp ++ new

theorem Extends.refl (s : State) : Extends s s :=
  ⟨.refl s, ⟨0, rfl⟩, ⟨0, rfl⟩, ⟨[], by simp⟩, ⟨[], by simp⟩⟩

theorem Extends.trans (h : Extends s t) (h' : Extends t u) : Extends s u := by
  obtain ⟨⟨p1, p2, p3, p4, p5, p6⟩, ⟨n, hr⟩, ⟨m, hw⟩, ⟨x, hx⟩, ⟨y, hy⟩⟩ := h
  obtain ⟨⟨q1, q2, q3, q4, q5, q6⟩, ⟨n', hr'⟩, ⟨m', hw'⟩, ⟨x', hx'⟩, ⟨y', hy'⟩⟩ := h'
  exact ⟨⟨q1.trans p1, q2.trans p2, q3.trans p3, q4.trans p4, q5.trans p5, q6.trans p6⟩,
    ⟨n + n', by rw [hr', hr, List.drop_drop]⟩, ⟨m + m', by rw [hw', hw, List.drop_drop]⟩,
    ⟨x ++ x', by rw [hx', hx, List.append_assoc]⟩, ⟨y ++ y', by rw [hy', hy, List.append_assoc]⟩⟩

theorem extends_of_phaseStep (h : phaseStep s = .next t) : Extends s t :=
  phaseStep_elim h
    (wait := .refl s)
    (readFailed := fun _ _ _ _ _ hr =>
      ⟨.refl s, ⟨1, by simp [hr]⟩, ⟨0, rfl⟩, ⟨_, rfl⟩, ⟨_, rfl⟩⟩)
    (writeFailed := fun _ _ _ _ _ hw =>
      ⟨.refl s, ⟨0, rfl⟩, ⟨1, by simp [hw]⟩, ⟨_, rfl⟩, ⟨_, rfl⟩⟩)
    (constructed := fun _ _ _ _ hw =>
      ⟨.refl s, ⟨0, rfl⟩, ⟨1, by simp [hw]⟩, ⟨_, rfl⟩, ⟨_, rfl⟩⟩)
    (advanced := fun _ _ _ _ _ _ _ _ _ _ _ hr =>
      ⟨.refl s, ⟨1, by simp [hr]⟩, ⟨0, rfl⟩, ⟨_, rfl⟩, ⟨[], by simp⟩⟩)
    (finished := fun _ _ _ _ _ _ _ hr =>
      ⟨.refl s, ⟨1, by simp [hr]⟩, ⟨0, rfl⟩, ⟨_, rfl⟩, ⟨_, rfl⟩⟩)

theorem exec_extends (hp : s.phase = .idle) (h : exec i s = .next t) : Extends s t := by
  rcases exec_next_cases hp h with ⟨_, p, rfl⟩ | ⟨c, _, _, hrun⟩
  · exact ⟨.refl s, ⟨0, rfl⟩, ⟨0, rfl⟩, ⟨[], by simp⟩, ⟨_, rfl⟩⟩
  · exact runPhases_keeps (P := Extends s) (fun hs hr => hs.trans (extends_of_phaseStep hr))
      (s := s.enter c) (.refl s) hrun

/-- No INIT is in progress in `u`, and `daddr` and the write replies are those of `s`. -/
def OnlyReads (s u : State) : Prop :=
  (∀ a, u.cmd ≠ some (.init a)) ∧ u.daddr = s.daddr ∧ u.writes = s.writes

theorem onlyReads_of_phaseStep (hu : OnlyReads s u) (h : phaseStep u = .next t) :
    OnlyReads s t := by
  have ⟨hinit, hd, hw⟩ := hu
  exact phaseStep_elim h
    (wait := hu)
    (readFailed := fun _ _ _ _ _ _ => ⟨by simp, hd, hw⟩)
    (writeFailed := fun a _ _ _ hc _ => absurd hc (hinit a))
    (constructed := fun a _ _ hc _ => absurd hc (hinit a))
    (advanced := fun _ _ _ _ _ _ _ _ _ _ _ _ => ⟨hinit, hd, hw⟩)
    (finished := fun _ _ _ _ _ _ _ _ => ⟨by simp, hd, hw⟩)

/-- Only INIT is latched as INIT. -/
theorem latchedCommand_ne_init {a : DeviceAddress} {c : Command} (hi : i ≠ .init)
    (hc : latchedCommand a i = some c) (b : DeviceAddress) : c ≠ .init b := by
  cases i with
  | init => exact absurd rfl hi
  | rdaxis | rdrangeDec | rdrangeRaw | rdaccelG | rdaccelMs2 =>
    cases hc
    simp
  | unpack | decrange | scale => cases hc

/-- Every command but INIT leaves `daddr` and the write replies (R76 to R80). -/
theorem exec_onlyReads (hi : i ≠ .init) (hp : s.phase = .idle) (h : exec i s = .next t) :
    t.daddr = s.daddr ∧ t.writes = s.writes := by
  rcases exec_next_cases hp h with ⟨_, p, rfl⟩ | ⟨c, hc, _, hrun⟩
  · exact ⟨rfl, rfl⟩
  · have hstart : OnlyReads s (s.enter c) :=
      ⟨fun a e => latchedCommand_ne_init hi hc a (Option.some.inj e), rfl, rfl⟩
    exact (runPhases_keeps onlyReads_of_phaseStep hstart hrun).2

/-- INIT leaves the read replies (R75). -/
theorem execInit_reads (hp : s.phase = .idle) (h : execInit s = .next t) : t.reads = s.reads := by
  rcases hd : s.daddr with _ | d
  · rcases hw : s.writes with _ | ⟨_ | e, rest⟩
    · cases (execInit_wait hp hd hw).symm.trans h
      rfl
    · cases (execInit_ack hp hd hw).symm.trans h
      rfl
    · cases (execInit_fail hp hd hw).symm.trans h
      rfl
  · cases (execInit_constructed hp hd).symm.trans h

/-- A command that reads nothing and is not INIT is pure. -/
theorem isPure_of_readOffsets (hr : readOffsets i = []) (hi : i ≠ .init) : isPure i = true := by
  cases i with
  | unpack | decrange | scale => rfl
  | init => exact absurd rfl hi
  | rdaxis | rdrangeDec | rdrangeRaw | rdaccelG | rdaccelMs2 => cases hr

/-- A pure command changes the responses alone. -/
theorem exec_pure_frame (hi : isPure i = true) (hp : s.phase = .idle) (h : exec i s = .next t) :
    t = { s with rsp := t.rsp } := by
  obtain ⟨p, e⟩ := exec_pure hi s
  cases (e.trans (whenIdle_idle hp _)).symm.trans h
  rfl

end Frame

/-- Settles O58: the ports, the replies, the trace and the responses by `exec_extends`, the address
and the replies of the other kind by `exec_onlyReads` and `execInit_reads`. -/
theorem commandFrame : Obligations.CommandFrame := by
  intro i s t hp h
  obtain ⟨⟨hport, hcd, hrst, htaken, hturn, hmoves⟩, hreads, hwrites, htrace, hrsp⟩ :=
    exec_extends hp h
  refine ⟨hport, hcd, hrst, htaken, hturn, hmoves, fun hi => exec_onlyReads hi hp h, fun hi => ?_,
    hreads, hwrites, htrace, hrsp,
    fun hr hi => exec_pure_frame (isPure_of_readOffsets hr hi) hp h⟩
  subst hi
  exact execInit_reads hp h

end Sys2Proof.Machine
end

section
/-! Answers given late (spec/41_bus_commands.md R81; assumptions 9, 17), and what a response depends
on (spec/10_state.md R18). -/

namespace Sys2Proof.Machine

section LateAnswers

variable {s t u : State} {i : Instr} {more : List ReadReply} {moreW : List WriteReply}

/-! ### Further replies at the port -/

/-- The state with further replies behind those that stand at the bus-master port. -/
def State.withMore (s : State) (more : List ReadReply) (moreW : List WriteReply) : State :=
  { s with reads := s.reads ++ more, writes := s.writes ++ moreW }

@[simp] theorem State.withMore_phase : (s.withMore more moreW).phase = s.phase := rfl

@[simp] theorem State.withMore_cmd : (s.withMore more moreW).cmd = s.cmd := rfl

/-- What follows a successful transaction does not see the replies that are left. -/
def IgnoresMore (more : List ReadReply) (moreW : List WriteReply) (f : State → Out) : Prop :=
  ∀ w t, f w = .next t → f (w.withMore more moreW) = .next (t.withMore more moreW)

theorem ignoresMore_next {g : State → State}
    (hg : ∀ w, g (w.withMore more moreW) = (g w).withMore more moreW) :
    IgnoresMore more moreW fun w => .next (g w) := by
  intro w t h
  cases h
  exact congrArg _ (hg w)

/-- A holding register is read as before. -/
theorem ignoresMore_whenHeld {α : Type} {g : State → Option α} {k : α → State → Out}
    (hg : ∀ w, g (w.withMore more moreW) = g w) (hk : ∀ v, IgnoresMore more moreW (k v)) :
    IgnoresMore more moreW fun w => whenHeld (g w) fun v => k v w := by
  intro w t h
  beta_reduce at h ⊢
  rw [hg]
  rcases hv : g w with _ | v
  · simp [hv] at h
  · rw [hv, whenHeld_some] at h
    exact hk v w t h

theorem ignoresMore_withSample {high : Byte} {k : Sample16 → State → Out}
    (hk : ∀ x, IgnoresMore more moreW (k x)) :
    IgnoresMore more moreW fun w => withSample w high fun x => k x w :=
  ignoresMore_whenHeld (fun _ => rfl) fun _ => hk _

theorem ignoresMore_finishAccel (a : AccelUnits) (v : Byte) :
    IgnoresMore more moreW fun w => finishAccel (w.latchRb v) a := by
  refine ignoresMore_whenHeld (fun _ => rfl) fun x => ?_
  refine ignoresMore_whenHeld (fun _ => rfl) fun y => ?_
  refine ignoresMore_whenHeld (fun _ => rfl) fun z => ?_
  refine ignoresMore_whenHeld (fun _ => rfl) fun b => ?_
  exact ignoresMore_next fun _ => rfl

/-- A read of a phase that is answered is answered the same with further replies behind. -/
theorem phaseRead_withMore {r : Byte} {k : Byte → State → Out}
    (hk : ∀ v, IgnoresMore more moreW (k v)) (h : phaseRead s r k = .next t) :
    t = s ∨ phaseRead (s.withMore more moreW) r k = .next (t.withMore more moreW) := by
  rcases hd : s.daddr with _ | d
  · cases (phaseRead_none hd r k).symm.trans h
  rw [phaseRead_some hd] at h
  rw [phaseRead_some (s := s.withMore more moreW) hd]
  rcases busRead_cases s d r k with ⟨_, e⟩ | ⟨v, rest, hr, e⟩ | ⟨e', rest, hr, e⟩ <;> rw [e] at h
  · cases h
    exact .inl rfl
  · rw [busRead_byte (s := s.withMore more moreW) (v := v) (rest := rest ++ more)
      (by simp [State.withMore, hr])]
    exact .inr (hk v _ t h)
  · cases h
    rw [busRead_fail (s := s.withMore more moreW) (e := e') (rest := rest ++ more)
      (by simp [State.withMore, hr])]
    exact .inr rfl

/-- A row that does not wait does the same with further replies behind. -/
theorem phaseStep_withMore (h : phaseStep s = .next t) :
    t = s ∨ phaseStep (s.withMore more moreW) = .next (t.withMore more moreW) := by
  unfold phaseStep at h
  split at h
  case h_1 =>
    cases h
    exact .inl rfl
  case h_2 a hp hc =>
    rw [phaseStep_i0 (s := s.withMore more moreW) hp hc]
    rcases hw : s.writes with _ | ⟨_ | e, rest⟩
    · rw [busWrite_nil hw] at h
      cases h
      exact .inl rfl
    · rw [busWrite_ack hw] at h
      cases h
      rw [busWrite_ack (s := s.withMore more moreW) (rest := rest ++ moreW)
        (by simp [State.withMore, hw])]
      exact .inr rfl
    · rw [busWrite_fail hw] at h
      cases h
      rw [busWrite_fail (s := s.withMore more moreW) (e := e) (rest := rest ++ moreW)
        (by simp [State.withMore, hw])]
      exact .inr rfl
  case h_4 base hp hc =>
    rw [phaseStep_a1 (s := s.withMore more moreW) hp hc]
    rcases hh : highOffset base with _ | base1
    · simp [phaseReadHigh, hh] at h
    · simp only [phaseReadHigh, hh] at h ⊢
      exact phaseRead_withMore
        (fun _ => ignoresMore_withSample fun _ => ignoresMore_next fun _ => rfl) h
  case h_12 a hp hc =>
    rw [phaseStep_c6 (s := s.withMore more moreW) hp hc]
    exact phaseRead_withMore (fun v => ignoresMore_finishAccel a v) h
  case h_13 => cases h
  case h_3 _ hp hc | h_5 _ hp hc | h_6 _ hp hc | h_8 _ hp hc | h_10 _ hp hc =>
    simp only [phaseStep, State.withMore_phase, State.withMore_cmd, hp, hc]
    exact phaseRead_withMore (fun _ => ignoresMore_next fun _ => rfl) h
  case h_7 _ hp hc | h_9 _ hp hc | h_11 _ hp hc =>
    simp only [phaseStep, State.withMore_phase, State.withMore_cmd, hp, hc]
    exact phaseRead_withMore
      (fun _ => ignoresMore_withSample fun _ => ignoresMore_next fun _ => rfl) h

/-- Rows that lead from `s` to `t` lead the same way with further replies behind, and go on from
`t`: those that waited are left out. -/
theorem runPhases_withMore {n : Nat} (h : runPhases n s = .next t) :
    ∃ k, ∀ m, runPhases (k + m) (s.withMore more moreW) =
      runPhases m (t.withMore more moreW) := by
  induction n generalizing s with
  | zero =>
    cases h
    exact ⟨0, fun m => by rw [Nat.zero_add]⟩
  | succ n ih =>
    rw [runPhases_eq_thenRun] at h
    rcases hr : phaseStep s with u | _ | _ <;> rw [hr] at h
    · obtain ⟨k, hk⟩ := ih h
      rcases phaseStep_withMore (more := more) (moreW := moreW) hr with rfl | hrow
      · exact ⟨k, hk⟩
      · exact ⟨k + 1, fun m => by rw [Nat.add_right_comm, runPhases_succ hrow, hk]⟩
    all_goals cases h

/-- A command that waits and is answered later ends as with all its answers from the start. -/
theorem exec_withMore (hp : s.phase = .idle) (h : exec i s = .next t) (ht : t.phase ≠ .idle) :
    exec i (s.withMore more moreW) = runPhases 7 (t.withMore more moreW) := by
  have hx := refusedCase_of_next hp h
  rcases exec_next_cases hp h with ⟨_, p, rfl⟩ | ⟨c, hc, _, hrun⟩
  · exact absurd hp ht
  · obtain ⟨k, hk⟩ := runPhases_withMore (more := more) (moreW := moreW) hrun
    rw [exec_eq_runPhases (s := s.withMore more moreW) (c := c) (n := k + 7) hp hc
      (by cases i <;> exact hx) (by omega)]
    exact hk 7
/-! ### Answers one by one -/

/-- On a constructed block a row waits where no reply stands at the port. -/
theorem phaseStep_no_reads {d : DeviceAddress} (hs : s.Inv) (hd : s.daddr = some d)
    (hr : s.reads = []) : phaseStep s = .next s := by
  obtain ⟨t, ht⟩ := exists_phaseStep_next hs
  obtain ⟨_, ⟨_, hi0⟩, _⟩ := hs
  have not_i0 (hp : s.phase = .i0) : False := by cases hd.symm.trans (hi0 hp)
  have hsame : t = s := phaseStep_elim (P := fun t => t = s) ht
    (wait := rfl)
    (readFailed := fun _ _ _ _ _ hr' => by cases hr.symm.trans hr')
    (writeFailed := fun _ _ _ hp _ _ => (not_i0 hp).elim)
    (constructed := fun _ _ hp _ _ => (not_i0 hp).elim)
    (advanced := fun _ _ _ _ _ _ _ _ _ _ _ hr' => by cases hr.symm.trans hr')
    (finished := fun _ _ _ _ _ _ _ hr' => by cases hr.symm.trans hr')
  exact hsame ▸ ht

/-- On a constructed block a row that is given one reply ends the command or leaves no reply, unless
it waits. -/
theorem phaseStep_one_read {d : DeviceAddress} {r : ReadReply} (hs : s.Inv)
    (hd : s.daddr = some d) (hr : s.reads = [r]) (h : phaseStep s = .next t) :
    t = s ∨ (t.phase = .idle ∧ t.cmd = none) ∨ (t.daddr = some d ∧ t.reads = []) := by
  obtain ⟨_, ⟨_, hi0⟩, _⟩ := hs
  have not_i0 (hp : s.phase = .i0) : False := by cases hd.symm.trans (hi0 hp)
  exact phaseStep_elim
    (P := fun t => t = s ∨ (t.phase = .idle ∧ t.cmd = none) ∨ (t.daddr = some d ∧ t.reads = [])) h
    (wait := .inl rfl)
    (readFailed := fun _ _ _ _ _ _ => .inr (.inl ⟨rfl, rfl⟩))
    (writeFailed := fun _ _ _ hp _ _ => (not_i0 hp).elim)
    (constructed := fun _ _ hp _ _ => (not_i0 hp).elim)
    (advanced := fun _ _ _ _ _ _ _ _ _ _ _ hr' =>
      .inr (.inr ⟨hd, (List.cons.inj (hr'.symm.trans hr)).2⟩))
    (finished := fun _ _ _ _ _ _ _ _ => .inr (.inl ⟨rfl, rfl⟩))

/-- On a constructed block one reply is used up by one row, and then the block stays. -/
theorem runPhases_one_read {d : DeviceAddress} {r : ReadReply} (hs : s.Inv)
    (hd : s.daddr = some d) (hr : s.reads = [r]) (n : Nat) :
    runPhases (n + 1) s = phaseStep s := by
  obtain ⟨t, ht⟩ := exists_phaseStep_next hs
  have stays : phaseStep t = .next t := by
    rcases phaseStep_one_read hs hd hr ht with rfl | ⟨hp, hc⟩ | ⟨hd', hr'⟩
    · exact ht
    · exact phaseStep_idle hp hc
    · exact phaseStep_no_reads (inv_of_phaseStep hs ht) hd' hr'
  rw [runPhases_succ ht, runPhases_fixed stays, ht]

/-- The last of several replies is given to the state that the others lead to. -/
theorem answerOneByOne_concat {pre : List ReadReply} {r : ReadReply}
    (h : answerOneByOne pre s = .next t) :
    answerOneByOne (pre ++ [r]) s = phaseStep { t with reads := [r] } := by
  induction pre generalizing s with
  | nil =>
    cases h
    rcases hr : phaseStep { t with reads := [r] } <;> simp [answerOneByOne, hr]
  | cons q pre ih =>
    rcases hq : phaseStep { s with reads := [q] } with u | _ | _ <;>
      simp only [List.cons_append, answerOneByOne, hq, reduceCtorEq] at h ⊢
    exact ih h

/-- Replies that are bytes, as the bytes they are. -/
theorem exists_bytes_of_isByte {replies : List ReadReply}
    (h : replies.all ReadReply.isByte = true) : ∃ vs : List Byte, replies = vs.map .byte := by
  induction replies with
  | nil => exact ⟨[], rfl⟩
  | cons r rest ih =>
    obtain ⟨hr, hrest⟩ : r.isByte = true ∧ rest.all ReadReply.isByte = true := by simpa using h
    obtain ⟨vs, rfl⟩ := ih hrest
    cases r with
    | byte v => exact ⟨v :: vs, rfl⟩
    | fail e => cases hr

/-- A command that reads, and that answers a next state, is legal and reads from the address held. -/
theorem constructed_of_reads (hx : refusedCase i s = none) (hne : readOffsets i ≠ []) :
    i.wellFormed = true ∧ ∃ d, s.daddr = some d := by
  cases i with
  | rdaxis base =>
    by_cases hb : base = 0xFF
    · simp [refusedCase, hb] at hx
    · exact ⟨by simpa [Instr.wellFormed] using hb,
        unconstructed_eq_none (refusedCase_rdaxis hb s ▸ hx)⟩
  | rdrangeDec | rdrangeRaw | rdaccelG | rdaccelMs2 => exact ⟨rfl, unconstructed_eq_none hx⟩
  | init | unpack | decrange | scale => exact absurd rfl hne

/-- A command in progress meets the invariants where it waits. -/
theorem inv_of_exec (hp : s.phase = .idle) (h : exec i s = .next t) (ht : t.phase ≠ .idle) :
    t.Inv := by
  rcases exec_next_cases hp h with ⟨_, p, rfl⟩ | ⟨c, _, hinv, hrun⟩
  · exact absurd hp ht
  · exact runPhases_keeps inv_of_phaseStep hinv hrun

/-- No command reads in `IDLE`. -/
theorem phase_ne_idle_of_readPhases {n : Nat} {p : Phase} (h : (readPhases i)[n]? = some p) :
    p ≠ .idle := by
  have hmem : p ∈ readPhases i := List.mem_of_getElem? h
  rintro rfl
  cases i <;> simp [readPhases] at hmem

/-- A command that waits for its last reply takes it by one row. -/
theorem exec_last_reply {pre : List ReadReply} {r : ReadReply} {d : DeviceAddress}
    (hp : s.phase = .idle) (h : exec i { s with reads := pre } = .next t) (ht : t.phase ≠ .idle)
    (hd : t.daddr = some d) (hr : t.reads = []) :
    exec i { s with reads := pre ++ [r] } = phaseStep { t with reads := [r] } := by
  have hinv : t.Inv := inv_of_exec (s := { s with reads := pre }) hp h ht
  have hlate := exec_withMore (s := { s with reads := pre }) (more := [r]) (moreW := []) hp h ht
  simp only [State.withMore, hr, List.append_nil, List.nil_append] at hlate
  exact hlate.trans (runPhases_one_read (s := { t with reads := [r] }) hinv hd rfl 6)

/-- Replies given one by one, all but the last bytes, end a reading command as all of them from the
start: the command waits for the last one where the others have led it. -/
theorem exec_answerOneByOne {replies : List ReadReply} (hp : s.phase = .idle) (hr : s.reads = [])
    (h : exec i s = .next t) (hlen : replies.length ≤ (readOffsets i).length)
    (hbytes : replies.dropLast.all ReadReply.isByte = true) :
    exec i { s with reads := replies } = answerOneByOne replies t := by
  induction replies using List.reverseRecOn with
  | nil =>
    change _ = Host.Outcome.next t
    rw [← hr]
    exact h
  | append_singleton pre r ih =>
    rw [List.dropLast_concat] at hbytes
    obtain ⟨vs, rfl⟩ := exists_bytes_of_isByte hbytes
    have hlt : vs.length < (readOffsets i).length := by simpa using hlen
    have hne : readOffsets i ≠ [] := List.ne_nil_of_length_pos (by omega)
    obtain ⟨hw, d, hd⟩ := constructed_of_reads (refusedCase_of_next hp h) hne
    obtain ⟨c, _, hangs⟩ :=
      exec_hangsInOrder (s := { s with reads := vs.map .byte }) hne hw hp hd
    obtain ⟨u, hu, hphase, _, hreads, _, hdaddr, _⟩ :=
      hangs vs _ (List.getElem?_eq_getElem hlt) rfl
    have hpre : answerOneByOne (vs.map .byte) t = .next u := by
      rw [← hu, ih (by simpa using hlt.le)]
      exact List.all_eq_true.mpr fun q hq =>
        List.all_eq_true.mp hbytes q (List.mem_of_mem_dropLast hq)
    rw [answerOneByOne_concat hpre]
    exact exec_last_reply hp hu (phase_ne_idle_of_readPhases hphase) (hdaddr.trans hd) hreads

/-- INIT takes the one answer to its write by one row. -/
theorem execInit_answer {w : WriteReply} (hp : s.phase = .idle) (hw : s.writes = [])
    (h : execInit s = .next t) :
    execInit { s with writes := [w] } = phaseStep { t with writes := [w] } := by
  have hd : s.daddr = none := by
    simpa [refusedCase] using refusedCase_of_next (i := .init) hp h
  cases (execInit_wait hp hd hw).symm.trans h
  cases w with
  | ack => exact execInit_ack (s := { s with writes := [.ack] }) hp hd rfl
  | fail e => exact execInit_fail (s := { s with writes := [.fail e] }) hp hd rfl

end LateAnswers

/-- Settles O43: all answers at once by `exec_withMore`, one by one by `exec_answerOneByOne`, and the
write of INIT by `execInit_answer`. -/
theorem lateAnswersEndTheSame : Obligations.LateAnswersEndTheSame :=
  ⟨fun _ _ _ _ _ hp h ht => exec_withMore hp h ht,
    fun _ _ _ _ hp hr h hlen hbytes => exec_answerOneByOne hp hr h hlen hbytes,
    fun _ _ _ hp hw h => execInit_answer hp hw h⟩

/-! ### What a response depends on -/

section Stateless

variable {s t : State}

/-- The blocks of `s` and `t` hold the same address, and the same replies stand at their ports. -/
def SameInputs (s t : State) : Prop :=
  t.daddr = s.daddr ∧ t.reads = s.reads ∧ t.writes = s.writes

/-- Where `o` is a next state of `s`, so is `o'` of `t`, with the same address and the same
transactions and responses added (R18). -/
def AnswersAlike (s t : State) (o o' : Out) : Prop :=
  ∀ s', o = .next s' → ∃ (t' : State) (newTrace : List Transaction) (newRsp : List Response),
    o' = .next t' ∧ t'.daddr = s'.daddr ∧
    s'.trace = s.trace ++ newTrace ∧ t'.trace = t.trace ++ newTrace ∧
    s'.rsp = s.rsp ++ newRsp ∧ t'.rsp = t.rsp ++ newRsp

/-- A block that waits has answered nothing. -/
theorem answersAlike_wait (h : t.daddr = s.daddr) : AnswersAlike s t (.next s) (.next t) := by
  rintro _ ⟨⟩
  exact ⟨t, [], [], rfl, h, by simp, by simp, by simp, by simp⟩

/-- The end of a command, with the same response. -/
theorem answersAlike_end (h : t.daddr = s.daddr) (r : Response) :
    AnswersAlike s t (.next (s.quiet.deliver r)) (.next (t.quiet.deliver r)) := by
  rintro _ ⟨⟩
  exact ⟨_, [], [r], rfl, h, by simp, by simp, by simp, by simp⟩

theorem answersAlike_refused (r r' : Refusal) :
    AnswersAlike s t (.refused r) (.refused r') := by
  rintro _ ⟨⟩

/-- The transaction recorded before the others is the same in both. -/
theorem answersAlike_record {rest rest' : List ReadReply} {ws ws' : List WriteReply}
    (x : Transaction) {o o' : Out}
    (h : AnswersAlike ({ s with reads := rest, writes := ws }.record x)
      ({ t with reads := rest', writes := ws' }.record x) o o') : AnswersAlike s t o o' := by
  intro s' ho
  obtain ⟨t', newTrace, newRsp, ho', hd, htr, htr', hrsp, hrsp'⟩ := h s' ho
  exact ⟨t', x :: newTrace, newRsp, ho', hd, by simpa using htr, by simpa using htr', hrsp, hrsp'⟩

/-- One read, by its three outcomes, which the replies at the port decide. -/
theorem answersAlike_busRead {d : DeviceAddress} {r : Byte} {k k' : Byte → State → Out}
    (h : SameInputs s t) (hk : ∀ v u w, SameInputs u w → AnswersAlike u w (k v u) (k' v w)) :
    AnswersAlike s t (busRead s d r k) (busRead t d r k') := by
  obtain ⟨hd, hr, hw⟩ := h
  rcases hs : s.reads with _ | ⟨v | e, rest⟩
  · rw [busRead_nil hs, busRead_nil (hr.trans hs)]
    exact answersAlike_wait hd
  · rw [busRead_byte hs, busRead_byte (hr.trans hs)]
    exact answersAlike_record _ (hk v _ _ ⟨hd, rfl, hw⟩)
  · rw [busRead_fail hs, busRead_fail (hr.trans hs)]
    exact answersAlike_record _ (answersAlike_end (by exact hd) (.err e))

theorem answersAlike_whenConstructed {k k' : DeviceAddress → Out} (h : t.daddr = s.daddr)
    (hk : ∀ d, AnswersAlike s t (k d) (k' d)) :
    AnswersAlike s t (whenConstructed s k) (whenConstructed t k') := by
  rcases hd : s.daddr with _ | d
  · rw [whenConstructed_none hd, whenConstructed_none (h.trans hd)]
    exact answersAlike_refused _ _
  · rw [whenConstructed_some hd, whenConstructed_some (h.trans hd)]
    exact hk d

/-! The commands, by these rules. -/

theorem execInit_alike (hs : s.phase = .idle) (ht : t.phase = .idle) (h : SameInputs s t)
    (hcd : t.cmdDaddr = s.cmdDaddr) : AnswersAlike s t (execInit s) (execInit t) := by
  obtain ⟨hd, hr, hw⟩ := h
  rcases hsd : s.daddr with _ | d
  · have htd := hd.trans hsd
    rcases hsw : s.writes with _ | ⟨_ | e, rest⟩
    · rw [execInit_wait hs hsd hsw, execInit_wait ht htd (hw.trans hsw)]
      exact answersAlike_wait (s := s.enter _) (t := t.enter _) hd
    · rw [execInit_ack hs hsd hsw, execInit_ack ht htd (hw.trans hsw), hcd]
      rintro _ ⟨⟩
      exact ⟨_, _, _, rfl, rfl, rfl, rfl, rfl, rfl⟩
    · rw [execInit_fail hs hsd hsw, execInit_fail ht htd (hw.trans hsw), hcd]
      rintro _ ⟨⟩
      exact ⟨_, _, _, rfl, hd, rfl, rfl, rfl, rfl⟩
  · rw [execInit_constructed hs hsd, execInit_constructed ht (hd.trans hsd)]
    exact answersAlike_refused _ _

theorem execRdaxis_alike {base : Byte} (hs : s.phase = .idle) (ht : t.phase = .idle)
    (h : SameInputs s t) : AnswersAlike s t (execRdaxis base s) (execRdaxis base t) := by
  simp only [execRdaxis, whenIdle_idle hs, whenIdle_idle ht]
  rcases highOffset base with _ | base1
  · exact answersAlike_refused _ _
  refine answersAlike_whenConstructed h.1 fun d => ?_
  refine answersAlike_busRead (s := s.enter _) (t := t.enter _) h fun low u w h => ?_
  refine answersAlike_busRead (s := u.latchLo _ _) (t := w.latchLo _ _) h fun high u w h => ?_
  exact answersAlike_end h.1 _

theorem readRange_alike {raw : Bool} {respond : Byte → Payload} (hs : s.phase = .idle)
    (ht : t.phase = .idle) (h : SameInputs s t) :
    AnswersAlike s t (readRange raw respond s) (readRange raw respond t) := by
  simp only [readRange, whenIdle_idle hs, whenIdle_idle ht]
  refine answersAlike_whenConstructed h.1 fun d => ?_
  refine answersAlike_busRead (s := s.enter _) (t := t.enter _) h fun b u w h => ?_
  exact answersAlike_end h.1 _

theorem readAccel_alike {a : AccelUnits} (hs : s.phase = .idle) (ht : t.phase = .idle)
    (h : SameInputs s t) : AnswersAlike s t (readAccel a s) (readAccel a t) := by
  simp only [readAccel, whenIdle_idle hs, whenIdle_idle ht]
  refine answersAlike_whenConstructed h.1 fun d => ?_
  refine answersAlike_busRead (s := s.enter _) (t := t.enter _) h fun xl u w h => ?_
  refine answersAlike_busRead (s := u.latchLo _ _) (t := w.latchLo _ _) h fun xh u w h => ?_
  refine answersAlike_busRead (s := u.latchS0 _ _) (t := w.latchS0 _ _) h fun yl u w h => ?_
  refine answersAlike_busRead (s := u.latchLo _ _) (t := w.latchLo _ _) h fun yh u w h => ?_
  refine answersAlike_busRead (s := u.latchS1 _ _) (t := w.latchS1 _ _) h fun zl u w h => ?_
  refine answersAlike_busRead (s := u.latchLo _ _) (t := w.latchLo _ _) h fun zh u w h => ?_
  refine answersAlike_busRead (s := u.latchS2 _ _) (t := w.latchS2 _ _) h fun b u w h => ?_
  exact answersAlike_end (s := u.latchRb b) (t := w.latchRb b) h.1 _

end Stateless

/-- Settles O55: what each command adds is decided by the replies at the port, and by the values of
`daddr` and `cmd_daddr`. -/
theorem responseIsStateless : Obligations.ResponseIsStateless := by
  intro i s s' t hs ht hd hcd hr hw h
  have hin : SameInputs s t := ⟨hd, hr, hw⟩
  cases i with
  | init => exact execInit_alike hs ht hin hcd s' h
  | rdaxis base => exact execRdaxis_alike hs ht hin s' h
  | rdrangeDec | rdrangeRaw => exact readRange_alike hs ht hin s' h
  | rdaccelG | rdaccelMs2 => exact readAccel_alike hs ht hin s' h
  | unpack | decrange | scale =>
    cases (whenIdle_idle hs _).symm.trans h
    exact ⟨_, [], _, whenIdle_idle ht _, hd, by simp, by simp, rfl, rfl⟩

end Sys2Proof.Machine
end

section
/-! Reading a written line back (spec/30_encoding.md R58; spec/00_scope.md R5): each function that takes
a line apart undoes the one that put it together, on plain texts. -/

namespace Sys2Proof.Machine

/-! ### Plain texts -/

/-- No character of a plain text ends or separates operands. -/
theorem ne_of_mem_plain {t : Text} (h : plainOperand t = true) {c : Char} (hc : c ∈ t) :
    c ≠ ' ' ∧ c ≠ ',' ∧ c ≠ ';' := by
  obtain ⟨-, hall⟩ := (Bool.and_eq_true _ _).mp h
  simpa [and_assoc] using List.all_eq_true.mp hall c hc

/-- A plain text is not empty. -/
theorem exists_cons_of_plain {t : Text} (h : plainOperand t = true) : ∃ c rest, t = c :: rest := by
  cases t with
  | nil => cases h
  | cons c rest => exact ⟨c, rest, rfl⟩

theorem plain_mnemonicText (i : Instr) : plainOperand (mnemonicText i) = true := by
  cases i <;> rfl

/-- A hexadecimal digit is plain and has its value. -/
theorem hexDigit_spec : ∀ n < 16, digitValue (hexDigit n) = some n ∧
    hexDigit n ≠ ' ' ∧ hexDigit n ≠ ',' ∧ hexDigit n ≠ ';' := by
  decide

theorem plain_byteText (b : Byte) : plainOperand (byteText b) = true := by
  have hb := b.isLt
  obtain ⟨-, hi⟩ := hexDigit_spec (b.toNat / 16) (by omega)
  obtain ⟨-, lo⟩ := hexDigit_spec (b.toNat % 16) (by omega)
  simp [plainOperand, byteText, hi, lo]

/-- Two hexadecimal digits after `0x` read as the byte they were written from (R5). -/
theorem readByte_byteText (b : Byte) : readByte (byteText b) = some b := by
  have hb := b.isLt
  obtain ⟨hi, -⟩ := hexDigit_spec (b.toNat / 16) (by omega)
  obtain ⟨lo, -⟩ := hexDigit_spec (b.toNat % 16) (by omega)
  have hdigits : b.toNat / 16 * 16 + b.toNat % 16 = b.toNat := Nat.div_add_mod' _ _
  have hread : readNumber (byteText b) = some b.toNat := by
    have hhi : b.toNat / 16 < 16 := by omega
    have hlo : b.toNat % 16 < 16 := by omega
    simp [byteText, readNumber, readDigits, hi, lo, hhi, hlo, hdigits]
  simp [readByte, hread, hb]

/-- What a line shows after its mnemonic is plain. -/
theorem plain_operandTexts {address : Text} (h : plainOperand address = true) (i : Instr) :
    ∀ t ∈ operandTexts address i, plainOperand t = true := by
  cases i <;> simp [operandTexts, h, plain_byteText]

/-! ### Operands -/

/-- A text without a comma is one operand. -/
theorem splitOperands_plain {t : Text} (h : ∀ c ∈ t, c ≠ ',') : splitOperands t = [t] := by
  induction t with
  | nil => rfl
  | cons c rest ih =>
    obtain ⟨hc, hrest⟩ := List.forall_mem_cons.mp h
    simp [splitOperands, hc, ih hrest]

/-- The first operand ends at the comma and the space. -/
theorem splitOperands_append {t : Text} (h : ∀ c ∈ t, c ≠ ',') (u : Text) :
    splitOperands (t ++ ',' :: ' ' :: u) = t :: splitOperands u := by
  induction t with
  | nil => rfl
  | cons c rest ih =>
    obtain ⟨hc, hrest⟩ := List.forall_mem_cons.mp h
    simp [splitOperands, hc, ih hrest]

/-- Operands joined are split again. -/
theorem splitOperands_joinOperands {ts : List Text} (hne : ts ≠ [])
    (h : ∀ t ∈ ts, plainOperand t = true) : splitOperands (joinOperands ts) = ts := by
  induction ts with
  | nil => exact absurd rfl hne
  | cons t rest ih =>
    obtain ⟨ht, hrest⟩ := List.forall_mem_cons.mp h
    have hcomma : ∀ c ∈ t, c ≠ ',' := fun c hc => (ne_of_mem_plain ht hc).2.1
    cases rest with
    | nil => exact splitOperands_plain hcomma
    | cons u rest =>
      have hjoin : joinOperands (t :: u :: rest) =
          t ++ ',' :: ' ' :: joinOperands (u :: rest) := by simp [joinOperands]
      rw [hjoin, splitOperands_append hcomma, ih (by simp) hrest]

/-! ### Lines -/

/-- A text that is neither a comment in part nor ends in a space. -/
def Trimmed (t : Text) : Prop := (∀ c ∈ t, c ≠ ';') ∧ ∃ init c, t = init ++ [c] ∧ c ≠ ' '

theorem trimmed_of_plain {t : Text} (h : plainOperand t = true) : Trimmed t := by
  obtain ⟨c, rest, rfl⟩ := exists_cons_of_plain h
  refine ⟨fun a ha => (ne_of_mem_plain h ha).2.2, _, _,
    (List.dropLast_append_getLast (List.cons_ne_nil c rest)).symm, ?_⟩
  exact (ne_of_mem_plain h (List.getLast_mem _)).1

/-- What stands before a trimmed text does not change its end. -/
theorem Trimmed.append {t u : Text} (ht : ∀ c ∈ t, c ≠ ';') (hu : Trimmed u) :
    Trimmed (t ++ u) := by
  obtain ⟨hsemi, init, c, rfl, hc⟩ := hu
  refine ⟨fun a ha => (List.mem_append.mp ha).elim (ht a) (hsemi a), t ++ init, c, ?_, hc⟩
  rw [List.append_assoc]

theorem trimmed_joinOperands {ts : List Text} (hne : ts ≠ [])
    (h : ∀ t ∈ ts, plainOperand t = true) : Trimmed (joinOperands ts) := by
  induction ts with
  | nil => exact absurd rfl hne
  | cons t rest ih =>
    obtain ⟨ht, hrest⟩ := List.forall_mem_cons.mp h
    cases rest with
    | nil => exact trimmed_of_plain ht
    | cons u rest =>
      refine .append (fun c hc => ?_) (ih (by simp) hrest)
      rcases List.mem_append.mp hc with hc | hc
      · exact (ne_of_mem_plain ht hc).2.2
      · fin_cases hc <;> decide

/-- Neither the comment nor the spaces around a line take anything from one that starts with a plain
text and is trimmed. -/
theorem trimText_withoutComment {m t : Text} (hm : plainOperand m = true) (h : Trimmed (m ++ t)) :
    trimText (withoutComment (m ++ t)) = m ++ t := by
  obtain ⟨c, rest, rfl⟩ := exists_cons_of_plain hm
  obtain ⟨hc, -, -⟩ := ne_of_mem_plain hm (List.mem_cons_self ..)
  obtain ⟨hsemi, init, e, hlast, he⟩ := h
  have hcomment : withoutComment (c :: rest ++ t) = c :: rest ++ t :=
    List.takeWhile_eq_self_iff.mpr fun a ha => by simpa using hsemi a ha
  have hfront : (c :: rest ++ t).dropWhile (fun c => c == ' ') = c :: rest ++ t := by
    simp [hc]
  rw [hcomment, trimText, hfront, hlast]
  simp [he]

/-- The mnemonic ends at the first space. -/
theorem splitLine_append {m : Text} (hm : ∀ c ∈ m, c ≠ ' ') (operands : Text) :
    splitLine (m ++ ' ' :: operands) = (m, splitOperands operands) := by
  have hm' : ∀ c ∈ m, (c != ' ') = true := fun c hc => by simpa using hm c hc
  simp [splitLine, List.dropWhile_append_of_pos hm', List.takeWhile_append_of_pos hm']

theorem splitLine_plain {m : Text} (hm : ∀ c ∈ m, c ≠ ' ') : splitLine m = (m, []) := by
  have hdrop : m.dropWhile (fun c => c != ' ') = [] :=
    List.dropWhile_eq_nil_iff.mpr fun c hc => by simpa using hm c hc
  simp [splitLine, hdrop]

/-- A trimmed line is read by its parts. -/
theorem assembleLine_of_splitLine {names : List (Text × DeviceAddress)} {m t : Text}
    {operands : List Text} {a : Assembled} (hm : plainOperand m = true) (h : Trimmed (m ++ t))
    (hs : splitLine (m ++ t) = (m, operands)) (ha : assembleParts names m operands = some a) :
    assembleLine names (m ++ t) = .command a := by
  have htrim := trimText_withoutComment hm h
  obtain ⟨c, rest, rfl⟩ := exists_cons_of_plain hm
  rw [List.cons_append] at htrim hs ⊢
  simp only [assembleLine, htrim, hs, ha]

/-- A line written from a command is read by the parts it was written from. -/
theorem assembleLine_instrText {names : List (Text × DeviceAddress)} {address : Text} {i : Instr}
    {a : Assembled} (h : plainOperand address = true)
    (ha : assembleParts names (mnemonicText i) (operandTexts address i) = some a) :
    assembleLine names (instrText address i) = .command a := by
  have hm := plain_mnemonicText i
  have hplain := plain_operandTexts h i
  have hspace : ∀ c ∈ mnemonicText i, c ≠ ' ' := fun c hc => (ne_of_mem_plain hm hc).1
  unfold instrText
  split
  next ho =>
    rw [ho] at ha
    rw [← List.append_nil (mnemonicText i)]
    refine assembleLine_of_splitLine hm ?_ ?_ ha
    · simpa using trimmed_of_plain hm
    · simpa using splitLine_plain hspace
  next t rest ho =>
    rw [ho] at ha hplain
    rw [List.append_assoc]
    refine assembleLine_of_splitLine hm ?_ ?_ ha
    · refine .append (fun c hc => (ne_of_mem_plain hm hc).2.2) (.append (by simp) ?_)
      exact trimmed_joinOperands (by simp) hplain
    · rw [List.singleton_append, splitLine_append hspace,
        splitOperands_joinOperands (by simp) hplain]

/-- Settles O6: the parts of a written line, by `assembleLine_instrText`, are read as the command by
its mnemonic. -/
theorem assemblerReadsBack : Obligations.AssemblerReadsBack := by
  intro i names operand a hplain hlookup
  refine assembleLine_instrText hplain ?_
  cases i with
  | init => simp [assembleParts, operandTexts, initOperand, hlookup]
  | rdrangeDec | rdrangeRaw | rdaccelG | rdaccelMs2 =>
    simp [assembleParts, operandTexts, mnemonicText, noOperand]
  | rdaxis | decrange | scale =>
    simp [assembleParts, operandTexts, mnemonicText, oneByte, readByte_byteText]
  | unpack => simp [assembleParts, operandTexts, mnemonicText, twoBytes, readByte_byteText]

end Sys2Proof.Machine
end

section
/-! The datapath in its bits (spec/40_datapath.md R61, R64): the unpacker as wiring, the modifiers as
binary64 patterns. -/

namespace Sys2Proof.Machine

/-- The two bytes of a sample are its integer modulo 256 and above (R61). -/
theorem unpackInt_bytes (low high : Byte) :
    (low.toNat : Int) = unpackInt low high % 256 ∧
      (high.toNat : Int) = unpackInt low high % 65536 / 256 := by
  have hlow := low.isLt
  have hhigh := high.isLt
  rw [unpackInt_eq]
  split <;> omega

/-- Bit 7 of the high byte is the sign (R61). -/
theorem unpackInt_neg_iff (low high : Byte) : unpackInt low high < 0 ↔ high.toNat ≥ 0x80 := by
  have hlow := low.isLt
  have hhigh := high.isLt
  rw [unpackInt_eq]
  split <;> omega

/-- Settles O18: the concatenation by `unpack16_eq_append`, the sign and the inverse on the integer,
and every sample as the bytes cut out of it. -/
theorem unpackIsWiring : Obligations.UnpackIsWiring := by
  refine ⟨unpack16_eq_append, fun low high => ?_, fun low high => ?_, fun x => ?_⟩
  · rw [unpack16_toInt]
    exact unpackInt_neg_iff low high
  · rw [unpack16_toInt]
    exact unpackInt_bytes low high
  · refine ⟨x.extractLsb' 0 8, x.extractLsb' 8 8, ?_⟩
    rw [unpack16_eq_append, BitVec.extractLsb'_append_extractLsb'_eq_extractLsb' (by rfl)]
    exact BitVec.extractLsb'_eq_self

/-! ### The modifiers as patterns -/

theorem fconst_8192 : fconst 8192 1 = 0x40C0000000000000 := by decide +kernel

theorem fconst_4096 : fconst 4096 1 = 0x40B0000000000000 := by decide +kernel

theorem fconst_2048 : fconst 2048 1 = 0x40A0000000000000 := by decide +kernel

/-- Standard gravity, 9.80665 (R56). -/
theorem gravity_pattern : gravity = 0x40239D013A92A305 := by decide +kernel

theorem scaleModifier_pattern (b : Byte) :
    scaleModifier b =
      if b = 0x00 then 0x40D0000000000000
      else if b = 0x08 then 0x40C0000000000000
      else if b = 0x10 then 0x40B55555551D68C7
      else if b = 0x18 then 0x40B0000000000000
      else if b = 0x20 then 0x40A0000000000000
      else 0x40D0000000000000 := by
  have h6g : fconst 546133333 100000 = 0x40B55555551D68C7 := scaleModifier_6g
  rw [scaleModifier, fconst_16384, fconst_8192, fconst_4096, fconst_2048, h6g]

/-- Settles O20: each modifier by its pattern. -/
theorem scaleModifierTable : Obligations.ScaleModifierTable :=
  ⟨scaleModifier_pattern, gravity_pattern⟩

/-- Settles O28: the worked sample of the source, by evaluation. -/
theorem sourceEndToEndSample : Obligations.SourceEndToEndSample := by
  unfold Obligations.SourceEndToEndSample
  decide +kernel

end Sys2Proof.Machine
end

section
/-! The format and its rounding (spec/30_encoding.md R56; spec/40_datapath.md R65): a pattern by its
sign and its other bits, a magnitude by the whole units of 2^-1074 it counts, and the rounding of
`n / d` units as the nearest representable number of units. -/

namespace Sys2Proof.Machine

/-! ### Patterns -/

/-- The magnitude of the pattern with the bits `m` below the sign, in units of 2^-1074. -/
def magUnits (m : Nat) : Nat :=
  if m / 2 ^ 52 = 0 then m % 2 ^ 52 else (2 ^ 52 + m % 2 ^ 52) * 2 ^ (m / 2 ^ 52 - 1)

section Patterns

variable {neg : Bool} {m : Nat}

theorem toNat_packFmt (hm : m < 2 ^ 63) : (packFmt neg m).toNat = neg.toNat * 2 ^ 63 + m := by
  rw [packFmt, BitVec.toNat_append, BitVec.toNat_ofNat, Nat.mod_eq_of_lt hm, BitVec.toNat_ofBool,
    ← Nat.shiftLeft_add_eq_or_of_lt hm, Nat.shiftLeft_eq]

@[simp] theorem fmtSign_packFmt : fmtSign (packFmt neg m) = neg := by
  have hmsb : (packFmt neg m).msb = (BitVec.ofBool neg).msb := BitVec.msb_append
  rw [fmtSign, hmsb]
  cases neg <;> rfl

theorem fmtExp_packFmt (hm : m < 2 ^ 63) : fmtExp (packFmt neg m) = m / 2 ^ 52 := by
  rw [fmtExp, BitVec.extractLsb'_toNat, toNat_packFmt hm, Nat.shiftRight_eq_div_pow]
  omega

theorem fmtFrac_packFmt (hm : m < 2 ^ 63) : fmtFrac (packFmt neg m) = m % 2 ^ 52 := by
  rw [fmtFrac, BitVec.extractLsb'_toNat, toNat_packFmt hm, Nat.shiftRight_zero]
  omega

theorem fmtUnits_packFmt (hm : m < 2 ^ 63) : fmtUnits (packFmt neg m) = magUnits m := by
  rw [fmtUnits, magUnits, fmtExp_packFmt hm, fmtFrac_packFmt hm]

theorem fmtFinite_packFmt_iff (hm : m ≤ infPattern) :
    fmtFinite (packFmt neg m) = true ↔ m < infPattern := by
  unfold infPattern at *
  rw [fmtFinite, fmtExp_packFmt (by omega), bne_iff_ne]
  omega

/-- Flipping the sign flips the top bit and no other. -/
theorem packFmt_not : packFmt (!neg) m = packFmt neg m ^^^ 0x8000000000000000 := by
  have top : (0x8000000000000000 : Fmt) = BitVec.ofBool true ++ 0#63 := by decide
  rw [packFmt, packFmt, top, BitVec.xor_append, BitVec.xor_zero]
  cases neg <;> rfl

/-- A pattern whose significand `q` is added onto the exponent `k`: `q` units of weight 2^k, also
where `q` carries into the exponent. -/
theorem magUnits_add {k q : Nat} (hq : q ≤ 2 ^ 53) (hk : k ≠ 0 → 2 ^ 52 ≤ q) :
    magUnits (k * 2 ^ 52 + q) = q * 2 ^ k := by
  unfold magUnits
  rcases Nat.lt_or_ge q (2 ^ 52) with hlt | hge
  · obtain rfl : k = 0 := by
      by_contra hne
      exact absurd (hk hne) (by omega)
    rw [if_pos (by omega), Nat.mod_eq_of_lt (by omega)]
    omega
  rcases Nat.lt_or_ge q (2 ^ 53) with hlt | hge'
  · have hdiv : (k * 2 ^ 52 + q) / 2 ^ 52 = k + 1 := by omega
    have hmod : (k * 2 ^ 52 + q) % 2 ^ 52 = q - 2 ^ 52 := by omega
    rw [hdiv, hmod, if_neg (by omega), Nat.add_sub_cancel' hge, Nat.add_sub_cancel]
  · obtain rfl : q = 2 ^ 53 := by omega
    have hdiv : (k * 2 ^ 52 + 2 ^ 53) / 2 ^ 52 = k + 2 := by omega
    have hmod : (k * 2 ^ 52 + 2 ^ 53) % 2 ^ 52 = 0 := by omega
    rw [hdiv, hmod, if_neg (by omega), Nat.add_zero, show k + 2 - 1 = k + 1 by omega, ← pow_add,
      ← pow_add, show 52 + (k + 1) = 53 + k by omega]

end Patterns

/-! ### Rounding to a whole number -/

/-- The quotient or the next number. -/
theorem divNearestEven_eq_or (n d : Nat) :
    divNearestEven n d = n / d ∨ divNearestEven n d = n / d + 1 := by
  unfold divNearestEven
  split
  · exact .inr rfl
  · exact .inl rfl

theorem divNearestEven_zero {d : Nat} (hd : 0 < d) : divNearestEven 0 d = 0 := by
  simp [divNearestEven, hd.ne]

/-- No whole number is nearer `n / d`, and one that is as near shows that the result is even. -/
theorem divNearestEven_nearest {n d : Nat} (hd : 0 < d) (m : Int) :
    |(divNearestEven n d : Int) * d - n| ≤ |m * d - n| ∧
      (|(divNearestEven n d : Int) * d - n| = |m * d - n| → m ≠ divNearestEven n d →
        divNearestEven n d % 2 = 0) := by
  have hr : n % d < d := Nat.mod_lt n hd
  have hn : (n : Int) = (n / d : Nat) * d + (n % d : Nat) := by
    exact_mod_cast (Nat.div_add_mod' n d).symm
  unfold divNearestEven
  generalize n / d = f, n % d = r at hn hr ⊢
  have below {m : Int} (h : m ≤ f) : |m * d - n| = (f - m) * d + r := by
    rw [abs_of_nonpos (by nlinarith), hn]
    ring
  have above {m : Int} (h : f + 1 ≤ m) : |m * d - n| = (m - (f + 1)) * d + (d - r) := by
    rw [abs_of_nonneg (by nlinarith), hn]
    ring
  split
  next hup =>
    rw [Nat.cast_succ, above le_rfl, sub_self, zero_mul, zero_add]
    rcases le_or_gt m f with hm | hm
    · have hgap : 0 ≤ (f - m) * (d : Int) := mul_nonneg (by omega) (by omega)
      rw [below hm]
      omega
    · have hgap : 0 ≤ (m - (f + 1)) * (d : Int) := mul_nonneg (by omega) (by omega)
      rw [above hm]
      refine ⟨by omega, fun heq hne => ?_⟩
      have hzero : (m - (f + 1)) * (d : Int) = 0 := by omega
      rcases mul_eq_zero.mp hzero with h | h <;> omega
  next hdown =>
    rw [below le_rfl, sub_self, zero_mul, zero_add]
    rcases le_or_gt m f with hm | hm
    · have hgap : 0 ≤ (f - m) * (d : Int) := mul_nonneg (by omega) (by omega)
      rw [below hm]
      refine ⟨by omega, fun heq hne => ?_⟩
      have hzero : (f - m) * (d : Int) = 0 := by omega
      rcases mul_eq_zero.mp hzero with h | h <;> omega
    · have hgap : 0 ≤ (m - (f + 1)) * (d : Int) := mul_nonneg (by omega) (by omega)
      rw [above hm]
      omega

/-! ### Rounding to the format -/

/-- The number of units that `n / d` is rounded to, while it does not overflow. -/
def roundedUnits (n d : Nat) : Nat :=
  divNearestEven n (d * 2 ^ roundScale (n / d)) * 2 ^ roundScale (n / d)

/-- A number of units, with its sign, whose significand has 53 bits at most. -/
def Representable (z : Int) : Prop := ∃ (m : Int) (j : Nat), |m| < 2 ^ 53 ∧ z = m * 2 ^ j

section Rounding

variable {n d : Nat}

/-- The scale leaves 53 bits before the point, and all of them where it scales at all. -/
theorem roundScale_bounds (w : Nat) :
    w < 2 ^ (53 + roundScale w) ∧ (roundScale w ≠ 0 → 2 ^ (52 + roundScale w) ≤ w) := by
  refine ⟨lt_of_lt_of_le Nat.lt_log2_self (Nat.pow_le_pow_right (by decide) ?_), fun h => ?_⟩
  · unfold roundScale
    omega
  · have hw : w ≠ 0 := by
      rintro rfl
      simp [roundScale] at h
    refine le_trans (Nat.pow_le_pow_right (by decide) ?_) (Nat.log2_self_le hw)
    unfold roundScale at *
    omega

/-- The significand has 53 bits, or is the next power of two. -/
theorem significand_bounds (n d : Nat) :
    divNearestEven n (d * 2 ^ roundScale (n / d)) ≤ 2 ^ 53 ∧
      (roundScale (n / d) ≠ 0 → 2 ^ 52 ≤ divNearestEven n (d * 2 ^ roundScale (n / d))) := by
  obtain ⟨hlt, hle⟩ := roundScale_bounds (n / d)
  generalize roundScale (n / d) = k at hlt hle ⊢
  have hquot : n / (d * 2 ^ k) = n / d / 2 ^ k := (Nat.div_div_eq_div_mul n d (2 ^ k)).symm
  have hup : n / d / 2 ^ k < 2 ^ 53 := by
    rw [Nat.div_lt_iff_lt_mul (by positivity), ← pow_add]
    exact hlt
  have hlow : k ≠ 0 → 2 ^ 52 ≤ n / d / 2 ^ k := fun h => by
    rw [Nat.le_div_iff_mul_le (by positivity), ← pow_add]
    exact hle h
  rcases divNearestEven_eq_or n (d * 2 ^ k) with e | e
  · rw [e, hquot]
    exact ⟨hup.le, hlow⟩
  · rw [e, hquot]
    exact ⟨hup, fun h => (hlow h).trans (Nat.le_succ _)⟩

theorem roundUnits_eq (n d : Nat) :
    roundUnits n d = min (roundScale (n / d) * 2 ^ 52 +
      divNearestEven n (d * 2 ^ roundScale (n / d))) infPattern := rfl

/-- Short of infinity the significand is added onto the scaled exponent. -/
theorem roundUnits_of_lt (h : roundUnits n d < infPattern) :
    roundUnits n d = roundScale (n / d) * 2 ^ 52 +
      divNearestEven n (d * 2 ^ roundScale (n / d)) := by
  rw [roundUnits_eq] at h ⊢
  omega

/-- The pattern of the rounding counts the rounded units. -/
theorem magUnits_roundUnits (h : roundUnits n d < infPattern) :
    magUnits (roundUnits n d) = roundedUnits n d := by
  obtain ⟨hq, hk⟩ := significand_bounds n d
  rw [roundUnits_of_lt h, magUnits_add hq hk, roundedUnits]

theorem roundScale_lt {w k : Nat} (hk : 0 < k) (h : w < 2 ^ (52 + k)) : roundScale w < k := by
  by_contra hge
  have hle := (roundScale_bounds w).2 (by omega)
  exact absurd ((Nat.pow_le_pow_right two_pos (by omega)).trans hle) (not_le.mpr h)

/-- Far below 2^2098 units nothing overflows. -/
theorem roundUnits_lt_infPattern (h : n / d < 2 ^ (52 + 2045)) : roundUnits n d < infPattern := by
  obtain ⟨hq, -⟩ := significand_bounds n d
  have hk : roundScale (n / d) < 2045 := roundScale_lt (by decide) h
  clear h
  rw [roundUnits_eq]
  unfold infPattern
  omega

/-- No representable number of units is nearer `n / d`, and one that is as near shows that the
significand is even. A number below the scale lies under the power of two that `n / d` has reached. -/
theorem roundedUnits_nearest (hd : 0 < d) {z : Int} (hz : Representable z) :
    |(roundedUnits n d : Int) * d - n| ≤ |z * d - n| ∧
      (|(roundedUnits n d : Int) * d - n| = |z * d - n| → z ≠ roundedUnits n d →
        divNearestEven n (d * 2 ^ roundScale (n / d)) % 2 = 0) := by
  obtain ⟨m, j, hm, rfl⟩ := hz
  have hscale := (roundScale_bounds (n / d)).2
  unfold roundedUnits
  generalize roundScale (n / d) = k at hscale ⊢
  have hdk : 0 < d * 2 ^ k := by positivity
  have hunits (q : Int) : q * 2 ^ k * d - n = q * (d * 2 ^ k : Nat) - n := by
    push_cast
    ring
  push_cast
  rw [hunits]
  rcases le_or_gt k j with hkj | hjk
  · have hz : m * 2 ^ j = m * 2 ^ (j - k) * 2 ^ k := by
      rw [mul_assoc, ← pow_add, Nat.sub_add_cancel hkj]
    rw [hz, hunits]
    obtain ⟨hle, htie⟩ := divNearestEven_nearest (n := n) hdk (m * 2 ^ (j - k))
    exact ⟨hle, fun heq hne => htie heq fun e => hne (by rw [e])⟩
  · have hlt : m * 2 ^ j < 2 ^ 52 * 2 ^ k := by
      have hpow : (2 : Int) ^ 53 * 2 ^ j ≤ 2 ^ 52 * 2 ^ k := by
        rw [← pow_add, ← pow_add]
        exact pow_le_pow_right₀ (by decide) (by omega)
      exact lt_of_lt_of_le (mul_lt_mul_of_pos_right (lt_of_abs_lt hm) (by positivity)) hpow
    have hreach : (2 : Int) ^ 52 * 2 ^ k * d ≤ n := by
      have hle := (Nat.le_div_iff_mul_le hd).mp (hscale (by omega))
      rw [pow_add] at hle
      exact_mod_cast hle
    have hstrict : |(2 : Int) ^ 52 * (d * 2 ^ k : Nat) - n| < |m * 2 ^ j * d - n| := by
      have hzd : m * 2 ^ j * d < 2 ^ 52 * 2 ^ k * d :=
        mul_lt_mul_of_pos_right hlt (by exact_mod_cast hd)
      rw [← hunits, abs_of_nonpos (by omega), abs_of_neg (by omega)]
      omega
    have hnear := ((divNearestEven_nearest (n := n) hdk (2 ^ 52)).1).trans_lt hstrict
    exact ⟨hnear.le, fun heq _ => absurd heq hnear.ne⟩

/-! What follows from it for representable bounds. -/

/-- A quotient that is representable is not rounded. -/
theorem roundedUnits_of_representable {u : Nat} (hd : 0 < d) (hu : Representable u)
    (hn : n = u * d) : roundedUnits n d = u := by
  have hle := (roundedUnits_nearest (n := n) hd hu).1
  have hzero : (roundedUnits n d : Int) * d - n = 0 := by
    rw [hn] at hle ⊢
    simpa using hle
  have hmul : (roundedUnits n d : Int) * d = u * d := by
    rw [hn] at hzero ⊢
    push_cast at hzero
    omega
  exact_mod_cast mul_right_cancel₀ (by exact_mod_cast hd.ne') hmul

theorem roundedUnits_le {u : Nat} (hd : 0 < d) (hu : Representable u) (h : n ≤ u * d) :
    roundedUnits n d ≤ u := by
  by_contra hlt
  have hle := (roundedUnits_nearest (n := n) hd hu).1
  have hgt : u * d < roundedUnits n d * d := Nat.mul_lt_mul_of_pos_right (by omega) hd
  zify at h hgt
  rw [abs_of_nonneg (by omega), abs_of_nonneg (by omega)] at hle
  omega

theorem le_roundedUnits {u : Nat} (hd : 0 < d) (hu : Representable u) (h : u * d ≤ n) :
    u ≤ roundedUnits n d := by
  by_contra hlt
  have hle := (roundedUnits_nearest (n := n) hd hu).1
  have hgt : roundedUnits n d * d < u * d := Nat.mul_lt_mul_of_pos_right (by omega) hd
  zify at h hgt
  rw [abs_of_nonpos (by omega), abs_of_nonpos (by omega)] at hle
  omega

theorem roundUnits_zero (hd : 0 < d) : roundUnits 0 d = 0 := by
  have hscale : roundScale (0 / d) = 0 := by simp [roundScale]
  rw [roundUnits_eq, hscale, divNearestEven_zero (by positivity)]
  rfl

end Rounding

end Sys2Proof.Machine
end

section
/-! Correct rounding (spec/40_datapath.md R65, decision D8): the values of the format as signed units,
and `fdiv` and `fmul` as roundings of their exact results. -/

namespace Sys2Proof.Machine

/-! ### Values -/

/-- The factor of a sign bit. -/
def signFactor (neg : Bool) : Int := if neg then -1 else 1

theorem signFactor_mul_self (neg : Bool) : signFactor neg * signFactor neg = 1 := by
  cases neg <;> rfl

theorem abs_signFactor (neg : Bool) : |signFactor neg| = 1 := by
  cases neg <;> rfl

theorem signFactor_bne (a b : Bool) : signFactor (a != b) = signFactor a * signFactor b := by
  cases a <;> cases b <;> rfl

/-- The number of units a pattern counts, with its sign. -/
def signedUnits (x : Fmt) : Int := signFactor (fmtSign x) * fmtUnits x

theorem unitsPerOne_pos : 0 < unitsPerOne := by
  rw [unitsPerOne]
  positivity

theorem cast_unitsPerOne_pos : (0 : ℚ) < unitsPerOne := Nat.cast_pos.mpr unitsPerOne_pos

theorem unitsPerOne_ne_zero : (unitsPerOne : ℚ) ≠ 0 := cast_unitsPerOne_pos.ne'

theorem fmtValue_eq (x : Fmt) : fmtValue x = (signedUnits x : ℚ) / unitsPerOne := by
  unfold fmtValue signedUnits signFactor
  split <;> push_cast <;> ring

theorem abs_fmtValue (x : Fmt) : |fmtValue x| = (fmtUnits x : ℚ) / unitsPerOne := by
  rw [fmtValue_eq, abs_div, Nat.abs_cast, ← Int.cast_abs, signedUnits, abs_mul, abs_signFactor,
    one_mul, Nat.abs_cast, Int.cast_natCast]

/-- A sign does not change what is representable. -/
theorem Representable.signed {z : Int} (h : Representable z) (neg : Bool) :
    Representable (signFactor neg * z) := by
  obtain ⟨m, j, hm, rfl⟩ := h
  exact ⟨signFactor neg * m, j, by rwa [abs_mul, abs_signFactor, one_mul], (mul_assoc _ _ _).symm⟩

/-- Every pattern counts a representable number of units. -/
theorem representable_fmtUnits (x : Fmt) : Representable (fmtUnits x) := by
  have hfrac : fmtFrac x < 2 ^ 52 := (x.extractLsb' 0 52).isLt
  unfold fmtUnits
  split
  · exact ⟨fmtFrac x, 0, by rw [Nat.abs_cast]; omega, by simp⟩
  · exact ⟨(2 ^ 52 + fmtFrac x : Nat), fmtExp x - 1, by rw [Nat.abs_cast]; omega, by push_cast; rfl⟩

/-! ### The rounding is nearest -/

section Nearest

variable {neg : Bool} {n d : Nat}

/-- The distance of a number of units from the exact result, as whole numbers. -/
theorem abs_sub_exact (neg : Bool) (n : Nat) (hd : 0 < d) (z : Int) :
    |(z : ℚ) / unitsPerOne - signFactor neg * (n / d) / unitsPerOne| =
      (|signFactor neg * z * d - n| : Int) / (d * unitsPerOne : ℚ) := by
  have hd' : (d : ℚ) ≠ 0 := by exact_mod_cast hd.ne'
  have hpos : (0 : ℚ) < d * unitsPerOne := mul_pos (Nat.cast_pos.mpr hd) cast_unitsPerOne_pos
  have hsign : (signFactor neg : ℚ) * signFactor neg = 1 := by
    exact_mod_cast signFactor_mul_self neg
  have habs : |(signFactor neg : ℚ)| = 1 := by exact_mod_cast abs_signFactor neg
  have hdiff : (z : ℚ) / unitsPerOne - signFactor neg * (n / d) / unitsPerOne =
      signFactor neg * ((signFactor neg * z * d - n) / (d * unitsPerOne)) := by
    have hU := unitsPerOne_ne_zero
    field_simp
    linear_combination (-(z : ℚ) * d) * hsign
  rw [hdiff, abs_mul, habs, one_mul, abs_div, abs_of_pos hpos]
  push_cast
  rfl

theorem signedUnits_roundUnits (h : roundUnits n d < infPattern) :
    signedUnits (packFmt neg (roundUnits n d)) = signFactor neg * roundedUnits n d := by
  have hlt : roundUnits n d < 2 ^ 63 := h.trans (by decide)
  rw [signedUnits, fmtSign_packFmt, fmtUnits_packFmt hlt, magUnits_roundUnits h]

/-- The last fraction bit of the rounding is that of the significand. -/
theorem fmtFrac_roundUnits (h : roundUnits n d < infPattern) :
    fmtFrac (packFmt neg (roundUnits n d)) % 2 =
      divNearestEven n (d * 2 ^ roundScale (n / d)) % 2 := by
  have hlt : roundUnits n d < 2 ^ 63 := h.trans (by decide)
  rw [fmtFrac_packFmt hlt, roundUnits_of_lt h]
  omega

/-- A pattern made by `roundUnits`, if it is finite, is the one nearest the exact result, ties to
even. -/
theorem packFmt_roundUnits_nearest (hd : 0 < d)
    (hfin : fmtFinite (packFmt neg (roundUnits n d)) = true) {e : ℚ}
    (he : e = signFactor neg * (n / d) / unitsPerOne) (z : Fmt) :
    |fmtValue (packFmt neg (roundUnits n d)) - e| ≤ |fmtValue z - e| ∧
      (|fmtValue (packFmt neg (roundUnits n d)) - e| = |fmtValue z - e| →
        fmtValue z ≠ fmtValue (packFmt neg (roundUnits n d)) →
        fmtFrac (packFmt neg (roundUnits n d)) % 2 = 0) := by
  have hlt : roundUnits n d < infPattern :=
    (fmtFinite_packFmt_iff (min_le_right _ _)).mp hfin
  have hpos : (0 : ℚ) < d * unitsPerOne := mul_pos (Nat.cast_pos.mpr hd) cast_unitsPerOne_pos
  have hself : signFactor neg * (signFactor neg * (roundedUnits n d : Int)) = roundedUnits n d := by
    rw [← mul_assoc, signFactor_mul_self, one_mul]
  have hz : Representable (signFactor neg * signedUnits z) :=
    ((representable_fmtUnits z).signed _).signed neg
  obtain ⟨hle, htie⟩ := roundedUnits_nearest (n := n) hd hz
  rw [he, fmtValue_eq, fmtValue_eq z, abs_sub_exact neg n hd, abs_sub_exact neg n hd,
    signedUnits_roundUnits hlt, hself, fmtFrac_roundUnits hlt, div_le_div_iff_of_pos_right hpos,
    div_left_inj' hpos.ne']
  refine ⟨by exact_mod_cast hle, fun heq hne => htie (by exact_mod_cast heq) fun e => hne ?_⟩
  have hunits : signedUnits z = signFactor neg * roundedUnits n d := by
    rw [← e, ← mul_assoc, signFactor_mul_self, one_mul]
  rw [hunits]

end Nearest

/-! ### The primitives on finite operands -/

section Primitives

variable {x y : Fmt}

theorem fmtNaN_of_finite (h : fmtFinite x = true) : fmtNaN x = false := by
  simp_all [fmtFinite, fmtNaN]

theorem fmtInf_of_finite (h : fmtFinite x = true) : fmtInf x = false := by
  simp_all [fmtFinite, fmtInf]

/-- `fdiv` of finite numbers with a non-zero divisor is one rounding. -/
theorem fdiv_finite (hx : fmtFinite x = true) (hy : fmtFinite y = true) (h0 : fmtUnits y ≠ 0) :
    fdiv x y =
      packFmt (fmtSign x != fmtSign y) (roundUnits (fmtUnits x * unitsPerOne) (fmtUnits y)) := by
  simp [fdiv, fmtNaN_of_finite hx, fmtNaN_of_finite hy, fmtInf_of_finite hx, fmtInf_of_finite hy,
    h0]

/-- `fmul` of finite numbers is one rounding. -/
theorem fmul_finite (hx : fmtFinite x = true) (hy : fmtFinite y = true) :
    fmul x y =
      packFmt (fmtSign x != fmtSign y) (roundUnits (fmtUnits x * fmtUnits y) unitsPerOne) := by
  simp [fmul, fmtNaN_of_finite hx, fmtNaN_of_finite hy, fmtInf_of_finite hx, fmtInf_of_finite hy]

/-- The exact quotient in units. -/
theorem fmtValue_div (x y : Fmt) :
    fmtValue x / fmtValue y = signFactor (fmtSign x != fmtSign y) *
      ((fmtUnits x * unitsPerOne : Nat) / fmtUnits y) / unitsPerOne := by
  have hU := unitsPerOne_ne_zero
  have hinv : ((signFactor (fmtSign y) : ℚ))⁻¹ = signFactor (fmtSign y) :=
    inv_eq_of_mul_eq_one_left (by exact_mod_cast signFactor_mul_self _)
  rw [fmtValue_eq, fmtValue_eq, signedUnits, signedUnits, signFactor_bne,
    div_div_div_cancel_right₀ hU]
  push_cast
  rw [mul_div_mul_comm, div_eq_mul_inv (signFactor _ : ℚ), hinv]
  field_simp

/-- The exact product in units. -/
theorem fmtValue_mul (x y : Fmt) :
    fmtValue x * fmtValue y = signFactor (fmtSign x != fmtSign y) *
      ((fmtUnits x * fmtUnits y : Nat) / unitsPerOne) / unitsPerOne := by
  rw [fmtValue_eq, fmtValue_eq, signedUnits, signedUnits, signFactor_bne]
  push_cast
  ring

end Primitives

/-- Settles O22: the quotient is one rounding of the exact quotient. -/
theorem fdivCorrectlyRounded : Obligations.FdivCorrectlyRounded := by
  intro x y hx hy h0 hfin z _
  rw [fdiv_finite hx hy h0] at hfin ⊢
  exact packFmt_roundUnits_nearest (Nat.pos_of_ne_zero h0) hfin (fmtValue_div x y) z

/-- Settles O23: the product is one rounding of the exact product. -/
theorem fmulCorrectlyRounded : Obligations.FmulCorrectlyRounded := by
  intro x y hx hy hfin z _
  rw [fmul_finite hx hy] at hfin ⊢
  exact packFmt_roundUnits_nearest unitsPerOne_pos hfin (fmtValue_mul x y) z

end Sys2Proof.Machine
end

section
/-! The conversions of a sample (spec/40_datapath.md R65 to R67, R72): each as one sign and one
rounding, with the units it rounds. -/

namespace Sys2Proof.Machine

theorem unitsPerOne_eq : unitsPerOne = 2 ^ 1074 := rfl

/-! ### Representable numbers of units -/

theorem representable_of_eq {u m j : Nat} (hm : m < 2 ^ 53) (hu : u = m * 2 ^ j) :
    Representable u :=
  ⟨m, j, by rw [Nat.abs_cast]; omega, by rw [hu]; push_cast; rfl⟩

/-- Sixteen times the units of a pattern. -/
theorem representable_sixteen_mul (x : Fmt) : Representable (16 * fmtUnits x : Nat) := by
  obtain ⟨m, j, hm, hx⟩ := representable_fmtUnits x
  refine ⟨m, 4 + j, hm, ?_⟩
  rw [Nat.cast_mul, hx, pow_add]
  ring

/-! ### A sample as a number of the format -/

section Sample

variable (s : Sample16) (b : Byte)

theorem natAbs_toInt_le : s.toInt.natAbs ≤ 2 ^ 15 := by
  have hlo := BitVec.le_toInt s
  have hhi := BitVec.toInt_lt (x := s)
  omega

/-- Within 2^20 nothing overflows, and the rounding counts the rounded units. -/
theorem roundUnits_lt_of_le {n d : Nat} (h : n ≤ d * (2 ^ 20 * unitsPerOne)) :
    roundUnits n d < infPattern := by
  refine roundUnits_lt_infPattern ((Nat.div_le_of_le_mul h).trans_lt ?_)
  rw [unitsPerOne_eq, ← pow_add, Nat.pow_lt_pow_iff_right one_lt_two]
  decide

theorem ofInt16_eq :
    ofInt16 s = packFmt (decide (s.toInt < 0)) (roundUnits (s.toInt.natAbs * unitsPerOne) 1) := rfl

theorem roundUnits_sample_lt : roundUnits (s.toInt.natAbs * unitsPerOne) 1 < infPattern := by
  refine roundUnits_lt_of_le ?_
  rw [one_mul]
  exact Nat.mul_le_mul_right _ ((natAbs_toInt_le s).trans (by decide))

theorem fmtFinite_ofInt16 : fmtFinite (ofInt16 s) = true :=
  (fmtFinite_packFmt_iff (min_le_right _ _)).mpr (roundUnits_sample_lt s)

@[simp] theorem fmtSign_ofInt16 : fmtSign (ofInt16 s) = decide (s.toInt < 0) := fmtSign_packFmt

/-- A sample needs no more than 53 bits (R65). -/
theorem fmtUnits_ofInt16 : fmtUnits (ofInt16 s) = s.toInt.natAbs * unitsPerOne := by
  have hlt := roundUnits_sample_lt s
  have hrep : Representable (s.toInt.natAbs * unitsPerOne : Nat) :=
    representable_of_eq ((natAbs_toInt_le s).trans_lt (by decide)) (by rw [unitsPerOne_eq])
  rw [ofInt16_eq, fmtUnits_packFmt (hlt.trans (by decide)), magUnits_roundUnits hlt]
  exact roundedUnits_of_representable one_pos hrep (mul_one _).symm

theorem signFactor_mul_natAbs (z : Int) : signFactor (decide (z < 0)) * z.natAbs = z := by
  by_cases h : z < 0
  · simp only [signFactor, h, decide_true, if_true]
    omega
  · simp only [signFactor, h, decide_false, Bool.false_eq_true, if_false]
    omega

end Sample

/-- Settles O21: the units of a sample are rounded to themselves. -/
theorem ofIntExact : Obligations.OfIntExact := by
  refine ⟨fun s => ⟨fmtFinite_ofInt16 s, ?_⟩, by decide +kernel⟩
  rw [fmtValue_eq, signedUnits, fmtSign_ofInt16, fmtUnits_ofInt16, Nat.cast_mul, ← mul_assoc,
    signFactor_mul_natAbs, Int.cast_mul, Int.cast_natCast,
    mul_div_cancel_right₀ _ unitsPerOne_ne_zero]

/-! ### The g-unit conversion -/

/-- 2^-14 in units: what the least non-zero sample makes with the greatest modifier. -/
def leastResult : Nat := 2 ^ 1060

theorem unitsPerOne_eq_mul_leastResult : unitsPerOne = 2 ^ 14 * leastResult := by
  rw [unitsPerOne_eq, leastResult, ← pow_add]

theorem two_pow_le_leastResult : 2 ^ 52 ≤ leastResult := by
  rw [leastResult, Nat.pow_le_pow_iff_right one_lt_two]
  decide

theorem representable_leastResult : Representable leastResult :=
  representable_of_eq (m := 1) (by decide) (by rw [leastResult, one_mul])

/-- The exponent of a modifier other than that of 6g (R64). -/
def scaleExponent (b : Byte) : Nat :=
  if b = 0x08 then 13 else if b = 0x18 then 12 else if b = 0x20 then 11 else 14

theorem fmtUnits_scaleModifier {b : Byte} (hb : b ≠ 0x10) :
    fmtUnits (scaleModifier b) = 2 ^ scaleExponent b * unitsPerOne := by
  by_cases h4g : b = 0x08
  · subst h4g
    decide +kernel
  by_cases h8g : b = 0x18
  · subst h8g
    decide +kernel
  by_cases h16g : b = 0x20
  · subst h16g
    decide +kernel
  have hother : b ∉ [(0x08 : Byte), 0x10, 0x18, 0x20] := by
    simp only [List.mem_cons, List.not_mem_nil, or_false, not_or]
    exact ⟨h4g, hb, h8g, h16g⟩
  rw [scaleModifier_fallback hother, scaleExponent, if_neg h4g, if_neg h8g,
    if_neg h16g]
  decide +kernel

/-- Every modifier is a positive number between 2^11 and 2^14. -/
theorem scaleModifier_bounds (b : Byte) :
    fmtFinite (scaleModifier b) = true ∧ fmtSign (scaleModifier b) = false ∧
      2 ^ 11 * unitsPerOne ≤ fmtUnits (scaleModifier b) ∧
      fmtUnits (scaleModifier b) ≤ 2 ^ 14 * unitsPerOne := by
  rw [scaleModifier_pattern]
  split_ifs <;> decide +kernel

section Conversions

variable (s : Sample16) (b : Byte)

theorem fmtUnits_scaleModifier_pos : 0 < fmtUnits (scaleModifier b) := by
  obtain ⟨_, _, hle, _⟩ := scaleModifier_bounds b
  exact lt_of_lt_of_le (Nat.mul_pos (by decide) unitsPerOne_pos) hle

/-- `to_g` is one sign and one rounding of the sample over the modifier (R66). -/
theorem toG_eq : toG s b = packFmt (decide (s.toInt < 0))
    (roundUnits (s.toInt.natAbs * unitsPerOne * unitsPerOne) (fmtUnits (scaleModifier b))) := by
  obtain ⟨hfin, hsign, _, _⟩ := scaleModifier_bounds b
  rw [toG, fdiv_finite (fmtFinite_ofInt16 s) hfin (fmtUnits_scaleModifier_pos b).ne', hsign,
    fmtSign_ofInt16, fmtUnits_ofInt16, Bool.bne_false]

@[simp] theorem fmtSign_toG : fmtSign (toG s b) = decide (s.toInt < 0) := by
  rw [toG_eq, fmtSign_packFmt]

/-- At most 2^15 over at least 2^11. -/
theorem toG_quotient_le : s.toInt.natAbs * unitsPerOne * unitsPerOne ≤
    fmtUnits (scaleModifier b) * (16 * unitsPerOne) := by
  obtain ⟨_, _, hle, _⟩ := scaleModifier_bounds b
  calc s.toInt.natAbs * unitsPerOne * unitsPerOne
      ≤ 2 ^ 15 * unitsPerOne * unitsPerOne :=
        Nat.mul_le_mul_right _ (Nat.mul_le_mul_right _ (natAbs_toInt_le s))
    _ = 2 ^ 11 * unitsPerOne * (16 * unitsPerOne) := by ring
    _ ≤ _ := Nat.mul_le_mul_right _ hle

theorem roundUnits_toG_lt : roundUnits (s.toInt.natAbs * unitsPerOne * unitsPerOne)
    (fmtUnits (scaleModifier b)) < infPattern :=
  roundUnits_lt_of_le ((toG_quotient_le s b).trans
    (Nat.mul_le_mul_left _ (Nat.mul_le_mul_right _ (by decide))))

theorem fmtFinite_toG : fmtFinite (toG s b) = true := by
  rw [toG_eq]
  exact (fmtFinite_packFmt_iff (min_le_right _ _)).mpr (roundUnits_toG_lt s b)

theorem fmtUnits_toG : fmtUnits (toG s b) = roundedUnits
    (s.toInt.natAbs * unitsPerOne * unitsPerOne) (fmtUnits (scaleModifier b)) := by
  have hlt := roundUnits_toG_lt s b
  rw [toG_eq, fmtUnits_packFmt (hlt.trans (by decide)), magUnits_roundUnits hlt]

theorem fmtUnits_toG_le : fmtUnits (toG s b) ≤ 16 * unitsPerOne := by
  have hrep : Representable (16 * unitsPerOne : Nat) :=
    representable_of_eq (m := 16) (by decide) (by rw [unitsPerOne_eq])
  rw [fmtUnits_toG]
  exact roundedUnits_le (fmtUnits_scaleModifier_pos b) hrep
    ((toG_quotient_le s b).trans_eq (Nat.mul_comm _ _))

theorem natAbs_toInt_pos {s : Sample16} (hs : s ≠ 0) : 0 < s.toInt.natAbs := by
  refine Int.natAbs_pos.mpr fun h => hs (BitVec.eq_of_toInt_eq ?_)
  rw [h]
  rfl

/-- At least 1 over at most 2^14. -/
theorem leastResult_le_fmtUnits_toG {s : Sample16} (hs : s ≠ 0) :
    leastResult ≤ fmtUnits (toG s b) := by
  obtain ⟨_, _, _, hle⟩ := scaleModifier_bounds b
  rw [fmtUnits_toG]
  refine le_roundedUnits (fmtUnits_scaleModifier_pos b) representable_leastResult ?_
  calc leastResult * fmtUnits (scaleModifier b)
      ≤ leastResult * (2 ^ 14 * unitsPerOne) := Nat.mul_le_mul_left _ hle
    _ = 1 * (2 ^ 14 * leastResult) * unitsPerOne := by ring
    _ = 1 * unitsPerOne * unitsPerOne := by rw [← unitsPerOne_eq_mul_leastResult]
    _ ≤ _ := Nat.mul_le_mul_right _ (Nat.mul_le_mul_right _ (natAbs_toInt_pos hs))

theorem unitsPerOne_eq_mul_scale :
    unitsPerOne = 2 ^ (1074 - scaleExponent b) * 2 ^ scaleExponent b := by
  have hk : scaleExponent b ≤ 1074 := by
    unfold scaleExponent
    split_ifs <;> decide
  rw [← pow_add, Nat.sub_add_cancel hk, unitsPerOne_eq]

variable {b} in
/-- Over a modifier 2^k the quotient has the bits of the sample and is not rounded (R72 c). -/
theorem fmtUnits_toG_of_ne (hb : b ≠ 0x10) :
    fmtUnits (toG s b) = s.toInt.natAbs * 2 ^ (1074 - scaleExponent b) := by
  have hrep : Representable (s.toInt.natAbs * 2 ^ (1074 - scaleExponent b) : Nat) :=
    representable_of_eq ((natAbs_toInt_le s).trans_lt (by decide)) rfl
  rw [fmtUnits_toG]
  refine roundedUnits_of_representable (fmtUnits_scaleModifier_pos b) hrep ?_
  rw [fmtUnits_scaleModifier hb, ← mul_assoc, mul_assoc s.toInt.natAbs _ (2 ^ scaleExponent b),
    ← unitsPerOne_eq_mul_scale]

theorem toG_zero : toG 0 b = 0 := by
  have hzero : (0 : Sample16).toInt.natAbs = 0 := rfl
  rw [toG_eq, hzero, zero_mul, zero_mul, roundUnits_zero (fmtUnits_scaleModifier_pos b)]
  rfl

/-! ### The m/s² conversion -/

/-- Standard gravity lies between 1 and 16. -/
theorem gravity_bounds : fmtFinite gravity = true ∧ fmtSign gravity = false ∧
    unitsPerOne ≤ fmtUnits gravity ∧ fmtUnits gravity ≤ 16 * unitsPerOne := by
  rw [gravity_pattern]
  decide +kernel

/-- `to_ms2` is the same sign and one rounding of the product (R67). -/
theorem toMs2_eq : toMs2 s b = packFmt (decide (s.toInt < 0))
    (roundUnits (fmtUnits (toG s b) * fmtUnits gravity) unitsPerOne) := by
  obtain ⟨hfin, hsign, _, _⟩ := gravity_bounds
  rw [toMs2, fmul_finite (fmtFinite_toG s b) hfin, hsign, fmtSign_toG, Bool.bne_false]

@[simp] theorem fmtSign_toMs2 : fmtSign (toMs2 s b) = decide (s.toInt < 0) := by
  rw [toMs2_eq, fmtSign_packFmt]

theorem toMs2_product_le :
    fmtUnits (toG s b) * fmtUnits gravity ≤ unitsPerOne * (16 * fmtUnits gravity) :=
  (Nat.mul_le_mul_right _ (fmtUnits_toG_le s b)).trans_eq (by ring)

theorem roundUnits_toMs2_lt :
    roundUnits (fmtUnits (toG s b) * fmtUnits gravity) unitsPerOne < infPattern := by
  obtain ⟨_, _, _, hle⟩ := gravity_bounds
  refine roundUnits_lt_of_le ((toMs2_product_le s b).trans (Nat.mul_le_mul_left _ ?_))
  calc 16 * fmtUnits gravity ≤ 16 * (16 * unitsPerOne) := Nat.mul_le_mul_left _ hle
    _ = 2 ^ 8 * unitsPerOne := by ring
    _ ≤ _ := Nat.mul_le_mul_right _ (by decide)

theorem fmtFinite_toMs2 : fmtFinite (toMs2 s b) = true := by
  rw [toMs2_eq]
  exact (fmtFinite_packFmt_iff (min_le_right _ _)).mpr (roundUnits_toMs2_lt s b)

theorem fmtUnits_toMs2 :
    fmtUnits (toMs2 s b) = roundedUnits (fmtUnits (toG s b) * fmtUnits gravity) unitsPerOne := by
  have hlt := roundUnits_toMs2_lt s b
  rw [toMs2_eq, fmtUnits_packFmt (hlt.trans (by decide)), magUnits_roundUnits hlt]

theorem fmtUnits_toMs2_le : fmtUnits (toMs2 s b) ≤ 16 * fmtUnits gravity := by
  rw [fmtUnits_toMs2]
  exact roundedUnits_le unitsPerOne_pos (representable_sixteen_mul gravity)
    ((toMs2_product_le s b).trans_eq (Nat.mul_comm _ _))

theorem leastResult_le_fmtUnits_toMs2 {s : Sample16} (hs : s ≠ 0) :
    leastResult ≤ fmtUnits (toMs2 s b) := by
  obtain ⟨_, _, hle, _⟩ := gravity_bounds
  rw [fmtUnits_toMs2]
  exact le_roundedUnits unitsPerOne_pos representable_leastResult
    (Nat.mul_le_mul (leastResult_le_fmtUnits_toG b hs) hle)

theorem toMs2_zero : toMs2 0 b = 0 := by
  have hzero : fmtUnits (0 : Fmt) = 0 := by decide
  rw [toMs2_eq, toG_zero, hzero, zero_mul, roundUnits_zero unitsPerOne_pos]
  rfl

/-! ### Magnitudes -/

theorem fmtSubnormal_of_le {x : Fmt} (h : 2 ^ 52 ≤ fmtUnits x) : fmtSubnormal x = false := by
  have hfrac : fmtFrac x < 2 ^ 52 := (x.extractLsb' 0 52).isLt
  have hexp : fmtExp x ≠ 0 := by
    intro he
    rw [fmtUnits, if_pos he] at h
    omega
  simp [fmtSubnormal, hexp]

/-- A result is +0 or far above the subnormal numbers. -/
theorem fmtSubnormal_of_result {x : Fmt} {s : Sample16} (h0 : s = 0 → x = 0)
    (h : s ≠ 0 → leastResult ≤ fmtUnits x) : fmtSubnormal x = false := by
  by_cases hs : s = 0
  · rw [h0 hs]
    decide
  · exact fmtSubnormal_of_le (two_pow_le_leastResult.trans (h hs))

theorem abs_fmtValue_le {x : Fmt} {k : ℚ} (h : fmtUnits x ≤ k * unitsPerOne) :
    |fmtValue x| ≤ k := by
  rwa [abs_fmtValue, div_le_iff₀ cast_unitsPerOne_pos]

theorem le_abs_fmtValue {x : Fmt} {k : ℚ} (hk : 0 < k) (h : unitsPerOne ≤ k * fmtUnits x) :
    1 / k ≤ |fmtValue x| := by
  have hpos := cast_unitsPerOne_pos
  rw [abs_fmtValue]
  generalize (unitsPerOne : ℚ) = u at h hpos ⊢
  rw [div_le_div_iff₀ hk hpos, one_mul, mul_comm]
  exact h

/-- A number without a sign is its own magnitude. -/
theorem fmtValue_of_not_sign {x : Fmt} (h : fmtSign x = false) :
    fmtValue x = (fmtUnits x : ℚ) / unitsPerOne := by
  have hone : signFactor false = 1 := rfl
  rw [fmtValue_eq, signedUnits, h, hone, one_mul, Int.cast_natCast]

/-! ### The sign of a sample -/

variable {s}

/-- Both conversions of the negated sample round the same units, and only the sign differs. -/
theorem toG_neg (hs : s ≠ 0) (hmin : s ≠ 0x8000) : toG (-s) b = toG s b ^^^ 0x8000000000000000 ∧
    toMs2 (-s) b = toMs2 s b ^^^ 0x8000000000000000 := by
  have hneg : (-s).toInt = -s.toInt := BitVec.toInt_neg_of_ne_intMin hmin
  have hsign : decide ((-s).toInt < 0) = !decide (s.toInt < 0) := by
    have hpos := natAbs_toInt_pos hs
    rw [hneg, ← decide_not, decide_eq_decide]
    omega
  have hunits : fmtUnits (toG (-s) b) = fmtUnits (toG s b) := by
    rw [fmtUnits_toG, fmtUnits_toG, hneg, Int.natAbs_neg]
  constructor
  · rw [toG_eq, toG_eq, hsign, hneg, Int.natAbs_neg, packFmt_not]
  · rw [toMs2_eq, toMs2_eq, hsign, hunits, packFmt_not]

end Conversions

/-- Settles O24: the units of the result, by `fmtUnits_toG_of_ne`, over those of one. -/
theorem toGExactOffSixG : Obligations.ToGExactOffSixG := by
  intro s b hb
  change _ = (s.toInt : ℚ) / 2 ^ scaleExponent b
  rw [fmtValue_eq, signedUnits, fmtSign_toG, fmtUnits_toG_of_ne s hb, Nat.cast_mul, ← mul_assoc,
    signFactor_mul_natAbs, unitsPerOne_eq_mul_scale b]
  push_cast
  field_simp

/-- Settles O25: the bounds in units, by `fmtUnits_toG_le` and `leastResult_le_fmtUnits_toG`. -/
theorem toGRangeAndSign : Obligations.ToGRangeAndSign := by
  intro s b
  have hzero : s = 0 → toG s b = 0 := fun h => h ▸ toG_zero b
  refine ⟨fmtFinite_toG s b, fmtSubnormal_of_result hzero (leastResult_le_fmtUnits_toG b),
    abs_fmtValue_le (by exact_mod_cast fmtUnits_toG_le s b), fun hs => ?_, hzero, fmtSign_toG s b⟩
  refine le_abs_fmtValue (by norm_num) ?_
  rw [unitsPerOne_eq_mul_leastResult]
  exact_mod_cast Nat.mul_le_mul_left (2 ^ 14) (leastResult_le_fmtUnits_toG b hs)

/-- Settles O26: the bounds in units, by `fmtUnits_toMs2_le` and `leastResult_le_fmtUnits_toMs2`. -/
theorem toMs2RangeAndSign : Obligations.ToMs2RangeAndSign := by
  intro s b
  have hzero : s = 0 → toMs2 s b = 0 := fun h => h ▸ toMs2_zero b
  refine ⟨fmtFinite_toMs2 s b, fmtSubnormal_of_result hzero (leastResult_le_fmtUnits_toMs2 b), ?_,
    hzero, fmtSign_toMs2 s b⟩
  rw [abs_fmtValue, fmtValue_of_not_sign gravity_bounds.2.1, ← mul_div_assoc,
    div_le_div_iff_of_pos_right cast_unitsPerOne_pos]
  exact_mod_cast fmtUnits_toMs2_le s b

/-- Settles O27, by `toG_neg`. -/
theorem conversionIsOdd : Obligations.ConversionIsOdd := fun _ b hs hmin => toG_neg b hs hmin

end Sys2Proof.Machine
end
